-- ==== Sys2Proof/Word.lean ====
section
/-! DEFINITION. The word types of the block: the 128-bit command and response words (30_encoding.md R80, R88), the 12-bit
grayscale value (10_state.md R31), the byte of the serial stream (10_state.md R43), and the sparse table that holds the block's memories. -/

namespace Sys2Proof

/-- A command word or a response word: one transfer of the 128-bit ports (R80, R88). -/
abbrev Word := BitVec 128

/-- A grayscale value `u12`: the unit of store access (R31, R64). -/
abbrev Gray := BitVec 12

/-- One byte handed to the serial transport (R43). -/
abbrev Byte := BitVec 8

/-- A sparse table over an index space: (index, value) pairs with indices strictly rising and no value equal to what an
unlisted index reads as. The canonical form is `Machine.tableWf`. -/
abbrev Table (α : Type) := List (Nat × α)

end Sys2Proof
end

