-- ==== Sys2Proof/Syntax.lean ====
section
/-! DEFINITION. The command set: one constructor of `Instr` per row of spec/opcode_table.json (30_encoding.md R83), with the
operands as the naturals that R81 and R82 read them as, and the pin-order operands as the three slots of R86 and R89. -/

namespace Sys2Proof

/-- The opcodes of the opcode map (30_encoding.md R83). -/
inductive Opcode where
  | setAll
  | setAllRgb
  | setLedMono
  | setLedRgb
  | setLedAppend
  | setChannel
  | getChannel
  | getLed
  | enforceMaxCurrent
  | setPinOrder
  | setPinOrderAll
  | shiftRow
  | latch
  | update
deriving DecidableEq, Repr

/-- One command with its operands (30_encoding.md R83, in the operand order of R89). -/
inductive Instr where
  /-- SET_ALL v (R101) -/
  | setAll (v : Nat)
  /-- SET_ALL_RGB r, g, b (R104) -/
  | setAllRgb (r g b : Nat)
  /-- SET_LED_MONO led, v (R108) -/
  | setLedMono (led v : Nat)
  /-- SET_LED_RGB led, r, g, b (R112) -/
  | setLedRgb (led r g b : Nat)
  /-- SET_LED_APPEND led, dr, dg, db (R114) -/
  | setLedAppend (led dr dg db : Nat)
  /-- SET_CHANNEL f, v (R118) -/
  | setChannel (f v : Nat)
  /-- GET_CHANNEL led, c (R120) -/
  | getChannel (led c : Nat)
  /-- GET_LED chip, l (R122) -/
  | getLed (chip l : Nat)
  /-- ENFORCE_MAX_CURRENT (R146) -/
  | enforceMaxCurrent
  /-- SET_PIN_ORDER led, p0, p1, p2 (R124): the slots of red, green and blue -/
  | setPinOrder (led p0 p1 p2 : Nat)
  /-- SET_PIN_ORDER_ALL p0, p1, p2 (R126): the slots of red, green and blue -/
  | setPinOrderAll (p0 p1 p2 : Nat)
  /-- SHIFT_ROW r (R170) -/
  | shiftRow (r : Nat)
  /-- LATCH r (R188) -/
  | latch (r : Nat)
  /-- UPDATE (R186) -/
  | update
deriving DecidableEq, Repr

/-- The opcode of a command. -/
def Instr.opcode : Instr → Opcode
  | .setAll _ => .setAll
  | .setAllRgb _ _ _ => .setAllRgb
  | .setLedMono _ _ => .setLedMono
  | .setLedRgb _ _ _ _ => .setLedRgb
  | .setLedAppend _ _ _ _ => .setLedAppend
  | .setChannel _ _ => .setChannel
  | .getChannel _ _ => .getChannel
  | .getLed _ _ => .getLed
  | .enforceMaxCurrent => .enforceMaxCurrent
  | .setPinOrder _ _ _ _ => .setPinOrder
  | .setPinOrderAll _ _ _ => .setPinOrderAll
  | .shiftRow _ => .shiftRow
  | .latch _ => .latch
  | .update => .update

end Sys2Proof
end

