-- ==== Sys2Proof/WellFormed.lean ====
section
/-! DEFINITION. The well-formed commands: every operand fits the field that carries it. 30_encoding.md R89 makes an operand too
wide for its field an assembly error, "above 65535 for a value, above 2^32 - 1 for an index, above 255 for AUX", and a slot
value above 3 too. -/

namespace Sys2Proof

/-- A value operand fits 16 bits (R80, R89). -/
def valueFits (v : Nat) : Bool := v < 2 ^ 16

/-- An index operand fits 32 bits (R80, R89). -/
def indexFits (i : Nat) : Bool := i < 2 ^ 32

/-- A small operand fits the 8 bits of AUX (R80, R89). -/
def auxFits (x : Nat) : Bool := x < 2 ^ 8

/-- A slot operand fits two bits of the permutation code (R86, R89). -/
def slotFits (p : Nat) : Bool := p < 4

/-- The command can be encoded (R89). -/
def Instr.wellFormed : Instr → Bool
  | .setAll v => valueFits v
  | .setAllRgb r g b => valueFits r && valueFits g && valueFits b
  | .setLedMono led v => indexFits led && valueFits v
  | .setLedRgb led r g b => indexFits led && valueFits r && valueFits g && valueFits b
  | .setLedAppend led dr dg db => indexFits led && valueFits dr && valueFits dg && valueFits db
  | .setChannel f v => indexFits f && valueFits v
  | .getChannel led c => indexFits led && auxFits c
  | .getLed chip l => indexFits chip && auxFits l
  | .enforceMaxCurrent => true
  | .setPinOrder led p0 p1 p2 => indexFits led && slotFits p0 && slotFits p1 && slotFits p2
  | .setPinOrderAll p0 p1 p2 => slotFits p0 && slotFits p1 && slotFits p2
  | .shiftRow r => indexFits r
  | .latch r => indexFits r
  | .update => true

end Sys2Proof
end

