-- ==== Sys2Proof/Decode.lean ====
section
/-! DEFINITION. Decoding a 128-bit command word, total over all words and rejecting by name (30_encoding.md R80 to R86), and the
encoder written from the same field table (R91). -/

namespace Sys2Proof

/-! ### The fields of a command word (R80) -/

/-- `OP`, bits 127:120. -/
def opField (w : Word) : BitVec 8 := w.extractLsb' 120 8
/-- `AUX`, bits 119:112. -/
def auxField (w : Word) : BitVec 8 := w.extractLsb' 112 8
/-- `IDX`, bits 95:64. -/
def idxField (w : Word) : BitVec 32 := w.extractLsb' 64 32
/-- `VA`, bits 63:48. -/
def vaField (w : Word) : BitVec 16 := w.extractLsb' 48 16
/-- `VB`, bits 47:32. -/
def vbField (w : Word) : BitVec 16 := w.extractLsb' 32 16
/-- `VC`, bits 31:16. -/
def vcField (w : Word) : BitVec 16 := w.extractLsb' 16 16

/-- The slots `p0 = code[1:0]`, `p1 = code[3:2]`, `p2 = code[5:4]` of a permutation code (R86). -/
def codeSlots (code : BitVec 6) : Nat × Nat × Nat :=
  ((code.extractLsb' 0 2).toNat, (code.extractLsb' 2 2).toNat, (code.extractLsb' 4 2).toNat)

/-- The permutation code of three slots (R86, R89: packed even when they are not a permutation). -/
def slotsCode (p0 p1 p2 : Nat) : BitVec 6 :=
  BitVec.ofNat 2 p2 ++ BitVec.ofNat 2 p1 ++ BitVec.ofNat 2 p0

/-! ### The opcode map (R83, R84) -/

/-- The value of `OP` that names the command (R83). -/
def Opcode.code : Opcode → BitVec 8
  | .setAll => 0x01
  | .setAllRgb => 0x02
  | .setLedMono => 0x03
  | .setLedRgb => 0x04
  | .setLedAppend => 0x05
  | .setChannel => 0x06
  | .getChannel => 0x07
  | .getLed => 0x08
  | .enforceMaxCurrent => 0x09
  | .setPinOrder => 0x0A
  | .setPinOrderAll => 0x0B
  | .shiftRow => 0x0C
  | .latch => 0x0D
  | .update => 0x0E

/-- The `mask` of the command's row: all ones except on its operand fields (R84). -/
def Opcode.mask : Opcode → Word
  | .setAll => 0xFFFFFFFFFFFFFFFF0000FFFFFFFFFFFF
  | .setAllRgb => 0xFFFFFFFFFFFFFFFF000000000000FFFF
  | .setLedMono => 0xFFFFFFFF000000000000FFFFFFFFFFFF
  | .setLedRgb => 0xFFFFFFFF00000000000000000000FFFF
  | .setLedAppend => 0xFFFFFFFF00000000000000000000FFFF
  | .setChannel => 0xFFFFFFFF000000000000FFFFFFFFFFFF
  | .getChannel => 0xFF00FFFF00000000FFFFFFFFFFFFFFFF
  | .getLed => 0xFF00FFFF00000000FFFFFFFFFFFFFFFF
  | .enforceMaxCurrent => 0xFFFFFFFFFFFFFFFFFFFFFFFFFFFFFFFF
  | .setPinOrder => 0xFFC0FFFF00000000FFFFFFFFFFFFFFFF
  | .setPinOrderAll => 0xFFC0FFFFFFFFFFFFFFFFFFFFFFFFFFFF
  | .shiftRow => 0xFFFFFFFF00000000FFFFFFFFFFFFFFFF
  | .latch => 0xFFFFFFFF00000000FFFFFFFFFFFFFFFF
  | .update => 0xFFFFFFFFFFFFFFFFFFFFFFFFFFFFFFFF

/-- The `match` of the command's row: `OP` in bits 127:120 and zero everywhere else (R84). -/
def Opcode.pattern (o : Opcode) : Word := o.code ++ 0#120

/-- Every opcode, in the order of R83. -/
def Opcode.all : List Opcode :=
  [.setAll, .setAllRgb, .setLedMono, .setLedRgb, .setLedAppend, .setChannel, .getChannel, .getLed, .enforceMaxCurrent,
    .setPinOrder, .setPinOrderAll, .shiftRow, .latch, .update]

/-- The opcode an `OP` field names, if any (R83). -/
def Opcode.ofField? (b : BitVec 8) : Option Opcode := Opcode.all.find? fun o => o.code == b

/-- The command of a word whose row is known: its operand fields, zero-extended to naturals (R81, R82, R86). -/
def Opcode.withOperands (o : Opcode) (w : Word) : Instr :=
  let i := (idxField w).toNat
  let x := (auxField w).toNat
  let a := (vaField w).toNat
  let b := (vbField w).toNat
  let c := (vcField w).toNat
  let p := codeSlots ((auxField w).extractLsb' 0 6)
  match o with
  | .setAll => .setAll a
  | .setAllRgb => .setAllRgb a b c
  | .setLedMono => .setLedMono i a
  | .setLedRgb => .setLedRgb i a b c
  | .setLedAppend => .setLedAppend i a b c
  | .setChannel => .setChannel i a
  | .getChannel => .getChannel i x
  | .getLed => .getLed i x
  | .enforceMaxCurrent => .enforceMaxCurrent
  | .setPinOrder => .setPinOrder i p.1 p.2.1 p.2.2
  | .setPinOrderAll => .setPinOrderAll p.1 p.2.1 p.2.2
  | .shiftRow => .shiftRow i
  | .latch => .latch i
  | .update => .update

/-- Why a word is no command of the opcode map (R85). Its third case, LATCH or UPDATE in a build without the latch controller,
depends on the configuration and stands in those commands' meanings (log entry 14). -/
inductive DecodeError where
  /-- R85 case 1: `OP` is not in the opcode map. -/
  | unknownOpcode
  /-- R85 case 2: a bit outside the command's operand fields is 1. -/
  | mustBeZero
deriving DecidableEq, Repr

/-- Decode one command word (R84, R85). -/
def decode (w : Word) : Except DecodeError Instr :=
  match Opcode.ofField? (opField w) with
  | none => .error .unknownOpcode
  | some o => if w &&& o.mask = o.pattern then .ok (o.withOperands w) else .error .mustBeZero

/-! ### The encoder (R91) -/

/-- The word with the given fields and every other bit 0 (R80, R91). -/
def assembleWord (op aux : BitVec 8) (idx : BitVec 32) (va vb vc : BitVec 16) : Word :=
  op ++ aux ++ 0#16 ++ idx ++ va ++ vb ++ vc ++ 0#16

/-- The word of a command: its fields placed, every field it does not name 0 (R91). -/
def encode (i : Instr) : Word :=
  let put (aux : BitVec 8) (idx va vb vc : Nat) : Word :=
    assembleWord i.opcode.code aux (BitVec.ofNat 32 idx) (BitVec.ofNat 16 va) (BitVec.ofNat 16 vb) (BitVec.ofNat 16 vc)
  match i with
  | .setAll v => put 0 0 v 0 0
  | .setAllRgb r g b => put 0 0 r g b
  | .setLedMono led v => put 0 led v 0 0
  | .setLedRgb led r g b => put 0 led r g b
  | .setLedAppend led dr dg db => put 0 led dr dg db
  | .setChannel f v => put 0 f v 0 0
  | .getChannel led c => put (BitVec.ofNat 8 c) led 0 0 0
  | .getLed chip l => put (BitVec.ofNat 8 l) chip 0 0 0
  | .enforceMaxCurrent => put 0 0 0 0 0
  | .setPinOrder led p0 p1 p2 => put (0#2 ++ slotsCode p0 p1 p2) led 0 0 0
  | .setPinOrderAll p0 p1 p2 => put (0#2 ++ slotsCode p0 p1 p2) 0 0 0 0
  | .shiftRow r => put 0 r 0 0 0
  | .latch r => put 0 r 0 0 0
  | .update => put 0 0 0 0 0

/-! ### The host's view of the decoder -/

/-- The command that `nbits` bits of an opcode-table row decode to. The port carries one whole 128-bit word per transfer (R80), so
bit 0 is the word's least significant bit and every bit above `nbits` is 0. -/
def tableWord (nbits w : Nat) : Word := BitVec.ofNat 128 (w % 2 ^ nbits)

/-- The instruction the decoder reads from a word of the opcode table, none where it refuses. -/
def decodeTableWord (nbits w : Nat) : Option Instr := (decode (tableWord nbits w)).toOption

end Sys2Proof
end

