-- ==== Sys2Proof/Machine/Flags.lean ====
section
/-! DEFINITION. The block has no flags (10_state.md R34): what a command reports is its response word (30_encoding.md R87, R88), and
the count that goes in it. -/

namespace Sys2Proof.Machine

/-- The outcomes a response reports (R87). -/
inductive Status where
  | ok
  | outOfRange
  | transportError
  | illegalCommand
  | notReady
deriving DecidableEq, Repr

/-- The status codes (R87). -/
def statusCode : Status → BitVec 8
  | .ok => 0x00
  | .outOfRange => 0x01
  | .transportError => 0x02
  | .illegalCommand => 0x03
  | .notReady => 0x04

/-- The response word (R88): STATUS, ROP, zero, COUNT, D0, D1, D2, zero, from bit 127 down. -/
def responseWord (rop : BitVec 8) (status : Status) (count : Nat) (d0 d1 d2 : Gray) : Word :=
  statusCode status ++ rop ++ 0#16 ++ BitVec.ofNat 32 count ++ d0.setWidth 16 ++ d1.setWidth 16 ++ d2.setWidth 16 ++ 0#16

end Sys2Proof.Machine
end

