-- ==== Sys2Proof/Machine/Memory.lean ====
section
/-! DEFINITION. Sparse tables in canonical form, and the Grayscale Store's memory over them (10_state.md R30, R45, 20_memory.md R64):
the unit is one 12-bit cell, the address is the flat channel index, an unlisted cell reads 0. -/

namespace Sys2Proof.Machine

/-- What index `a` reads as, `d` where it is not listed. -/
def tableRead {α : Type} (d : α) : Table α → Nat → α
  | [], _ => d
  | (k, v) :: t, a => if a = k then v else tableRead d t a

/-- Write one index; writing `d` removes the entry. -/
def tableWrite {α : Type} [DecidableEq α] (d : α) : Table α → Nat → α → Table α
  | [], a, v => if v = d then [] else [(a, v)]
  | (k, x) :: t, a, v =>
    if a < k then (if v = d then (k, x) :: t else (a, v) :: (k, x) :: t)
    else if a = k then (if v = d then t else (a, v) :: t)
    else (k, x) :: tableWrite d t a v

/-- Write several indices, one after the other. -/
def tableWriteAll {α : Type} [DecidableEq α] (d : α) (t : Table α) : List (Nat × α) → Table α
  | [] => t
  | (a, v) :: kvs => tableWriteAll d (tableWrite d t a v) kvs

/-- The canonical form: indices strictly rising, no entry equal to what an unlisted index reads as. -/
def tableWf {α : Type} [DecidableEq α] (d : α) : Table α → Bool
  | [] => true
  | (k, v) :: t => decide (v ≠ d) && t.all (fun e => decide (k < e.1)) && tableWf d t

/-- Every listed index lies below `n`. -/
def tableBelow {α : Type} (n : Nat) (t : Table α) : Bool := t.all fun e => decide (e.1 < n)

/-- The Grayscale Store's memory: cells by flat channel index. -/
abbrev Memory := Table Gray

/-- What an unlisted cell reads as: "A read of a cell never written returns 0 and does not fault" (R45). -/
def Memory.unlisted : Gray := 0

/-- `MemRead(f, 12)` (00_scope.md R18). -/
def Memory.read (m : Memory) (f : Nat) : Gray := tableRead Memory.unlisted m f

/-- `MemWrite(f, 12, v)` (00_scope.md R18). -/
def Memory.write (m : Memory) (f : Nat) (v : Gray) : Memory := tableWrite Memory.unlisted m f v

/-- Write every cell of a list of candidates (40_store.md R100 phase 4). -/
def Memory.writeAll (m : Memory) (cand : List (Nat × Gray)) : Memory := tableWriteAll Memory.unlisted m cand

/-- The memory is in canonical form. -/
def Memory.wf (m : Memory) : Bool := tableWf Memory.unlisted m

end Sys2Proof.Machine
end

