-- ==== Sys2Proof/Config.lean ====
section
/-! DEFINITION. The configuration registers (10_state.md R35), the parameters of 00_scope.md R9 to R16, and the one free value of
the block's surroundings: the transport's answers (60_exceptions.md R205). -/

namespace Sys2Proof

/-- A traversal direction (00_scope.md R13). The bit codes are R35's: 0 = ASC, 1 = DESC. -/
inductive Order where
  | asc
  | desc
deriving DecidableEq, Repr

/-- The transport's answer to one byte (60_exceptions.md R205). -/
inductive Answer where
  | ok
  | fail
deriving DecidableEq, Repr, Inhabited

/-- The configuration registers of R35, each with its width, and `SETTLE_TIME`, a parameter of R15 and R16 that R35 gives no
register. Fixed from the release of reset to the next release (R36). -/
structure Config where
  /-- `CFG_NUM_LATCHES`, `L`: the number of latch rows (R9). -/
  numLatches : BitVec 32
  /-- `CFG_NUM_TLC_ONE_ROW`, `N`: the number of chips in each row (R9). -/
  numTlcOneRow : BitVec 32
  /-- `CFG_LIMIT_EN`: current limiting on or off (R11). -/
  limitEn : Bool
  /-- `CFG_MAX_ALLOWED`: the largest value the limiter lets stand (R11). -/
  maxAllowed : Gray
  /-- `CFG_PIN_ORDER_INIT`: the permutation code of every pin-order entry after reset (R12, R86). -/
  pinOrderInit : BitVec 6
  /-- `CFG_ROW_ORDER` (R13). -/
  rowOrder : Order
  /-- `CFG_CHIP_ORDER` (R13). -/
  chipOrder : Order
  /-- `CFG_LED_ORDER` (R13). -/
  ledOrder : Order
  /-- `CFG_HAS_LATCH_CTRL`: whether the build has the latch controller (R14). -/
  hasLatchCtrl : Bool
  /-- `CFG_SERIAL_CLK_HZ`: timing only, no rule reads it (R15, R246). -/
  serialClkHz : BitVec 32
  /-- `CFG_LATCH_PULSE_MIN`: timing only, no rule reads it (R15, R246). -/
  latchPulseMin : BitVec 32
  /-- `SETTLE_TIME`: timing only, no rule reads it (R15, R246). -/
  settleTime : Nat
deriving DecidableEq, Repr

/-- The configuration of `Machine.State.reset`. The pin order, the latch controller and the serial clock have the spec's own
defaults (R12, R14, R15). DESIGN CHOICE (log entries 1 and 2), unsafe: the spec gives every other field no default. The sizes,
`LIMIT_EN` and the orders are those 95_test_vectors.md uses unless a vector says otherwise. -/
def Config.default : Config where
  numLatches := 1
  numTlcOneRow := 1
  limitEn := false
  maxAllowed := 4095
  pinOrderInit := 0x24
  rowOrder := .asc
  chipOrder := .asc
  ledOrder := .asc
  hasLatchCtrl := true
  serialClkHz := 1500000
  latchPulseMin := 1
  settleTime := 0

/-- FREE VALUE (log entry 4): the transport's answer to the byte with this attempt index. "A model takes each answer as a free
draw, under no law" (60_exceptions.md R205). Nothing can prove a value of it. -/
opaque Config.transportAnswer : Nat → Answer

end Sys2Proof
end

