-- ==== Sys2Proof/Machine/State.lean ====
section
/-! DEFINITION. Everything the spec gives the block (10_state.md R30 to R45), the inputs its surroundings drive
(60_exceptions.md R204, R205, R206, R215) and the model's own record of what it did (43_latch.md R194), as plain data; the named
ways a step can stop; and the state after reset. -/

namespace Sys2Proof.Machine

/-- The sequencer phase (R38). -/
inductive Phase where
  | idle
  | shifting
  | latching
deriving DecidableEq, Repr

/-- A pin-order entry: one of the six permutations of the slots 0, 1, 2 (R32, R33). `pABC` sends red in slot A, green in slot B
and blue in slot C (30_encoding.md R86). -/
inductive PinOrder where
  | p012
  | p021
  | p102
  | p120
  | p201
  | p210
deriving DecidableEq, Repr

/-- A logical colour (00_scope.md R19). -/
inductive Colour where
  | red
  | green
  | blue
deriving DecidableEq, Repr

/-- The transmission accumulator `(acc, cnt)` (R39): `cnt` valid bits, the oldest in the most significant position of the low
`cnt` bits. During one push `cnt` is at most 7 + 12 = 19. -/
structure Accumulator where
  acc : BitVec 19
  cnt : Nat
deriving DecidableEq, Repr

/-- The traversal cursor (R41): the row, the chip, the LED within the chip and the slot of the value being pushed. -/
structure Cursor where
  row : Nat
  chip : Nat
  led : Nat
  slot : Fin 3
deriving DecidableEq, Repr

/-- What the transport does with a byte (60_exceptions.md R205, 70_reset_and_hazards.md R245): answer it, or never answer. -/
inductive Reply where
  | answer (a : Answer)
  | never
deriving DecidableEq, Repr

/-- One entry of the model's record. The first three are the observable events of 43_latch.md R194. The others order the changes
of phase and of the latch lines and the assertions of reset among them (log entry 10). -/
inductive Event where
  /-- `Byte(b, ans)` -/
  | byte (b : Byte) (ans : Answer)
  /-- `LatchPulse(r)`: one completed pulse -/
  | latchPulse (r : Nat)
  /-- `Resp(rsp)` -/
  | resp (rsp : Word)
  /-- the phase goes from `p` to `q` for row `r` (43_latch.md R180) -/
  | phase (p q : Phase) (r : Nat)
  /-- `LATCH[r]` is driven to `level` (43_latch.md R182) -/
  | line (r : Nat) (level : Bool)
  /-- the reset input is asserted (70_reset_and_hazards.md R230) -/
  | resetAsserted
deriving DecidableEq, Repr

/-- The state of the block, the inputs of its surroundings, and the model's record. -/
structure State where
  /-- The configuration registers (R35). -/
  cfg : Config
  /-- The Grayscale Store by flat channel index (R30, 20_memory.md R62); an unlisted cell reads 0 (R45). -/
  gs : Table Gray
  /-- The Pin Order Table by flat LED index (R32, 20_memory.md R61); an unlisted LED reads `CFG_PIN_ORDER_INIT` (R45). -/
  po : Table PinOrder
  /-- The sequencer phase (R38). -/
  phase : Phase
  /-- The transmission accumulator (R39). -/
  accum : Accumulator
  /-- The traversal cursor (R41), none between shifts. -/
  cursor : Option Cursor
  /-- The pending row (R40). -/
  pendingRow : Option Nat
  /-- The latch output lines (R42): the lines at 1, an unlisted line is at 0. -/
  latch : Table Bool
  /-- The response port: the response the host has not taken yet (30_encoding.md R88, 60_exceptions.md R206). -/
  rspPort : Option Word
  /-- The reset input is held asserted (70_reset_and_hazards.md R230). -/
  inReset : Bool
  /-- INPUT: the command words the host offers, oldest first; the block holds them until it takes them (R206). -/
  offered : List Word
  /-- INPUT: the host takes a response that stands on the port (R206). -/
  hostReady : Bool
  /-- INPUT: the transport's coming replies; when none is listed the answer is a free draw (R205, log entry 4). -/
  replies : List Reply
  /-- INPUT: the configuration inputs, sampled when reset is released (R36). -/
  cfgInputs : Config
  /-- INPUT: how many sequencer moments remain until reset is asserted, none if it is not (70_reset_and_hazards.md R232). -/
  resetAfter : Option Nat
  /-- MODEL: how many bytes the transport has answered; the free draw is applied to it (log entry 4). -/
  attempts : Nat
  /-- MODEL: the record, oldest first (43_latch.md R194, log entry 10). -/
  log : List Event
deriving DecidableEq, Repr

/-- The ways a run has no next step. All three are waits of the hardware without a timeout, raised by `Machine.step` only. -/
inductive Fault where
  /-- 70_reset_and_hazards.md R245: the transport never answers the byte in flight. Safe: the hardware waits for ever too. -/
  | transportNeverAnswers
  /-- 93_implementation_defined.md row 16: the host never takes the response. Safe: the hardware waits for ever too. -/
  | responseNotTaken
  /-- 93_implementation_defined.md row 16: the host offers no command. Safe: the hardware waits for ever too. -/
  | noCommandOffered
deriving DecidableEq, Repr

/-- The refusals of a step. -/
inductive Refusal where
  /-- An instruction without a meaning, raised by `Machine.exec` only. Safe. No arm raises it: all have their meaning. -/
  | notModelled (mnemonic : String)
  /-- 10_state.md R35: the configuration inputs break a legal-values entry when reset is released, raised by the release of reset in
  `Machine.step`. Safe: "the block has no reset state for it, and a model must not start". -/
  | illegalConfiguration
deriving DecidableEq, Repr

/-- The state of R45 for a configuration, with surroundings that have not acted yet (log entries 4, 5, 8, 9, 10). -/
def State.resetWith (cfg : Config) : State where
  cfg := cfg
  gs := []
  po := []
  phase := .idle
  accum := ⟨0, 0⟩
  cursor := none
  pendingRow := none
  latch := []
  rspPort := none
  inReset := false
  offered := []
  hostReady := true
  replies := []
  cfgInputs := cfg
  resetAfter := none
  attempts := 0
  log := []

/-- The machine right after reset (R45, 70_reset_and_hazards.md R230). DESIGN CHOICE (log entry 1): the configuration is
`Config.default`, for the spec fixes none. -/
def State.reset : State := State.resetWith Config.default

end Sys2Proof.Machine
end

