-- ==== Sys2Proof/Machine/Operands.lean ====
section
/-! DEFINITION. What operands name: derived sizes and legal configurations (00_scope.md R9, R10, 10_state.md R35), index maps
(20_memory.md R60 to R63), permutations (30_encoding.md R86), traversal sequences (42_bit_packer.md R160, R162) and the row's bit
stream as a function (R164). -/

namespace Sys2Proof.Machine

/-! ### Sizes and legal configurations -/

/-- `L` (00_scope.md R9). -/
def rows (c : Config) : Nat := c.numLatches.toNat
/-- `N` (00_scope.md R9). -/
def chipsPerRow (c : Config) : Nat := c.numTlcOneRow.toNat
/-- `C = L * N` (00_scope.md R9). -/
def chips (c : Config) : Nat := rows c * chipsPerRow c
/-- `TOTAL_LEDS = 8*C` (00_scope.md R10). -/
def totalLeds (c : Config) : Nat := 8 * chips c
/-- `TOTAL_CHANNELS = 24*C` (00_scope.md R10). -/
def totalChannels (c : Config) : Nat := 24 * chips c
/-- `ROW_BYTES = 36*N` (00_scope.md R10). -/
def rowBytesCount (c : Config) : Nat := 36 * chipsPerRow c
/-- `GS_MAX` (00_scope.md R10). -/
def gsMax : Nat := 4095

/-! ### Permutations -/

/-- The index of a colour: red = 0, green = 1, blue = 2 (00_scope.md R19). -/
def Colour.index : Colour → Nat
  | .red => 0
  | .green => 1
  | .blue => 2

/-- The entry that sends red, green and blue in these slots; none where the slots are not a permutation of 0, 1, 2 (R86). -/
def PinOrder.ofSlots? (p0 p1 p2 : Nat) : Option PinOrder :=
  match p0, p1, p2 with
  | 0, 1, 2 => some .p012
  | 0, 2, 1 => some .p021
  | 1, 0, 2 => some .p102
  | 1, 2, 0 => some .p120
  | 2, 0, 1 => some .p201
  | 2, 1, 0 => some .p210
  | _, _, _ => none

/-- The entry a permutation code stands for, if it is one of the six valid codes (R86). -/
def PinOrder.ofCode? (code : BitVec 6) : Option PinOrder :=
  let p := codeSlots code
  PinOrder.ofSlots? p.1 p.2.1 p.2.2

/-- The slot in which a colour goes out: `PO[ch][l][c]` (10_state.md R32). -/
def PinOrder.slot : PinOrder → Colour → Fin 3
  | .p012, .red => 0
  | .p012, .green => 1
  | .p012, .blue => 2
  | .p021, .red => 0
  | .p021, .green => 2
  | .p021, .blue => 1
  | .p102, .red => 1
  | .p102, .green => 0
  | .p102, .blue => 2
  | .p120, .red => 1
  | .p120, .green => 2
  | .p120, .blue => 0
  | .p201, .red => 2
  | .p201, .green => 0
  | .p201, .blue => 1
  | .p210, .red => 2
  | .p210, .green => 1
  | .p210, .blue => 0

/-- `colourAt`: the colour that slot `p` carries, the one `c` with `PO[ch][l][c] = p` (42_bit_packer.md R162). -/
def PinOrder.colourAt (o : PinOrder) (p : Fin 3) : Colour :=
  if o.slot .red = p then .red else if o.slot .green = p then .green else .blue

/-- The entry every LED holds after reset (10_state.md R45). A legal configuration's code is a permutation; for another the block
has no reset state (R35), and the value named here is never used. -/
def initialPinOrder (c : Config) : PinOrder := (PinOrder.ofCode? c.pinOrderInit).getD .p012

/-- The legal values of R35. -/
def legalConfig (c : Config) : Bool :=
  decide (1 ≤ rows c) && decide (1 ≤ chipsPerRow c) && decide (totalChannels c ≤ 2 ^ 32 - 1) &&
    (PinOrder.ofCode? c.pinOrderInit).isSome && decide (0 < c.serialClkHz.toNat) && decide (0 < c.latchPulseMin.toNat)

/-- The bit code of an order register: 0 = ASC, 1 = DESC (R35). -/
def orderCode : Order → BitVec 1
  | .asc => 0
  | .desc => 1

/-- The conversion that 41_current_limiter.md R144 recommends and nothing in the block checks: the amps and `I_LSB` are outside. -/
def recommendedMaxAllowed (maxCurrentAmps iLsb : Rat) : Nat := min gsMax (maxCurrentAmps / iLsb).floor.toNat

/-! ### Index maps -/

/-- The flat channel index of a cell: `f = (ch*8 + l)*3 + c` (20_memory.md R62). -/
def cellIndex (ch l c : Nat) : Nat := (ch * 8 + l) * 3 + c

/-- The chip of a flat channel index (R62). -/
def chipOfChannel (f : Nat) : Nat := f / 24
/-- The LED within the chip of a flat channel index (R62). -/
def ledOfChannel (f : Nat) : Nat := f % 24 / 3
/-- The colour of a flat channel index (R62). -/
def colourOfChannel (f : Nat) : Nat := f % 3

/-- The chip of a flat LED index (R61). -/
def chipOfLed (led : Nat) : Nat := led / 8
/-- The LED within the chip of a flat LED index (R61). -/
def ledInChip (led : Nat) : Nat := led % 8

/-- The three cells of an LED, red first (R61, R62). -/
def ledCells (led : Nat) : List Nat :=
  [cellIndex (chipOfLed led) (ledInChip led) 0, cellIndex (chipOfLed led) (ledInChip led) 1,
    cellIndex (chipOfLed led) (ledInChip led) 2]

/-- Every cell of the store (20_memory.md R60). -/
def allCells (c : Config) : List Nat := List.range (totalChannels c)

/-! ### Range checks (60_exceptions.md R201) -/

/-- A value operand is at most 4095. -/
def valueInRange (v : Nat) : Bool := decide (v ≤ gsMax)
/-- A flat LED index names an LED. -/
def ledInRange (c : Config) (led : Nat) : Bool := decide (led < totalLeds c)
/-- A flat channel index names a cell. -/
def channelInRange (c : Config) (f : Nat) : Bool := decide (f < totalChannels c)
/-- A chip operand names a chip. -/
def chipInRange (c : Config) (ch : Nat) : Bool := decide (ch < chips c)
/-- A row operand names a latch row. -/
def rowInRange (c : Config) (r : Nat) : Bool := decide (r < rows c)

/-! ### Traversal (42_bit_packer.md R160, R162) -/

/-- A rising list in the direction of an order parameter. -/
def directed {α : Type} (o : Order) (xs : List α) : List α :=
  match o with
  | .asc => xs
  | .desc => xs.reverse

/-- `RowSeq` (R160). -/
def rowSeq (c : Config) : List Nat := directed c.rowOrder (List.range (rows c))

/-- The chips a latch row controls, in ascending order: the Latch Map (10_state.md R37). -/
def latchMap (c : Config) (r : Nat) : List Nat := (List.range (chipsPerRow c)).map fun k => r * chipsPerRow c + k

/-- `RowChips(r)` (R160). -/
def rowChips (c : Config) (r : Nat) : List Nat := directed c.chipOrder (latchMap c r)

/-- `LedSeq` (R160). -/
def ledSeq (c : Config) : List Nat := directed c.ledOrder (List.range 8)

/-- The slots in transmission order (R162). -/
def slotSeq : List (Fin 3) := [0, 1, 2]

/-- The cursor positions of row `r` in the order the packer walks them (R164, R166). -/
def walk (c : Config) (r : Nat) : List Cursor :=
  (rowChips c r).flatMap fun ch => (ledSeq c).flatMap fun l => slotSeq.map fun p => ⟨r, ch, l, p⟩

/-- `PO[ch][l]` (10_state.md R32). -/
def pinOrderOf (c : Config) (po : Table PinOrder) (led : Nat) : PinOrder := tableRead (initialPinOrder c) po led

/-- The flat channel index of the cell the packer sends at a cursor position: `(ch, l, colourAt(ch, l, p))` (R162). -/
def cellAt (c : Config) (po : Table PinOrder) (k : Cursor) : Nat :=
  cellIndex k.chip k.led ((pinOrderOf c po (k.chip * 8 + k.led)).colourAt k.slot).index

/-! ### The row's stream as a function (42_bit_packer.md R164) -/

/-- `bits12(v)`: the 12 bits of `v`, most significant first. -/
def bits12 (v : Gray) : List Bool := (List.range 12).map fun i => v.getMsbD i

/-- A byte from its bits, the earliest in bit 7 (20_memory.md R68). -/
def byteOfBits (bits : List Bool) : Byte := bits.foldl (fun b x => b <<< 1 ||| (if x then 1 else 0)) 0

/-- `RowStream(r)` (R164). -/
def rowStream (c : Config) (gs : Memory) (po : Table PinOrder) (r : Nat) : List Bool :=
  (walk c r).flatMap fun k => bits12 (gs.read (cellAt c po k))

/-- `RowBytes(r)`: byte `k` is stream bits `8k` to `8k+7` (R164). -/
def rowBytes (c : Config) (gs : Memory) (po : Table PinOrder) (r : Nat) : List Byte :=
  (List.range (rowBytesCount c)).map fun k => byteOfBits (((rowStream c gs po r).drop (8 * k)).take 8)

end Sys2Proof.Machine
end

