-- ==== Sys2Proof/Machine/Ops.lean ====
section
/-! DEFINITION. The shared operations over the state: the reset input, responses and errors (60_exceptions.md R207, R208), the limit
pass and the setter procedure (41_current_limiter.md R142, 40_store.md R100), the packer (42_bit_packer.md R161 to R167) and the
latch pulse (43_latch.md R182). -/

namespace Sys2Proof.Machine

/-- What a meaning answers. Every meaning of this block answers a next state. -/
abbrev Result := Host.Outcome State Fault Refusal

/-! ### The record and the reset input -/

/-- Append one entry to the record. -/
def State.logged (s : State) (e : Event) : State := { s with log := s.log ++ [e] }

/-- One sequencer moment passes: the asserting of reset comes nearer, if it is coming (log entry 8). -/
def State.tick (s : State) : State := { s with resetAfter := s.resetAfter.map fun k => k - 1 }

/-- The reset input is asserted now (70_reset_and_hazards.md R232). -/
def State.resetDue (s : State) : Bool := s.resetAfter == some 0

/-- Reset is asserted: a running command is aborted with no response, every latch line is driven low, nothing is emitted (R230,
R232). The other registers get their reset values at release. -/
def State.assertReset (s : State) : State :=
  { s with
    latch := []
    inReset := true
    resetAfter := none
    log := s.log ++ (s.latch.map fun e => Event.line e.1 false) ++ [.resetAsserted] }

/-- The state after the release of reset: the configuration is sampled from the inputs and everything else of the block takes its
reset value (R230, 10_state.md R45). The surroundings and the record go on (log entry 9). -/
def State.released (s : State) : State :=
  { State.resetWith s.cfgInputs with
    offered := s.offered
    hostReady := s.hostReady
    replies := s.replies
    attempts := s.attempts
    log := s.log }

/-- Reset is released: a configuration that breaks R35 has no reset state (R230). -/
def releaseReset (s : State) : Result :=
  if legalConfig s.cfgInputs then .next s.released else .refused .illegalConfiguration

/-! ### Responses and errors -/

/-- `respond(status, count, d0, d1, d2)` for a command whose `OP` is `op`: the response word is put on the response port, the last
act of the command (00_scope.md R18, 30_encoding.md R88). A command that reset aborts first gets no response (R232). -/
def respond (op : BitVec 8) (status : Status) (count : Nat) (d0 d1 d2 : Gray) (s : State) : State :=
  if s.resetDue then s.assertReset
  else
    let rsp := responseWord op status count d0 d1 d2
    ({ s with rspPort := some rsp }.logged (.resp rsp)).tick

/-- `raise E`: respond with status `E`, COUNT 0 and all data 0, and change nothing else (00_scope.md R18, 60_exceptions.md R208). -/
def raise (op : BitVec 8) (e : Status) (s : State) : State := respond op e 0 0 0 0 s

/-- LATCH and UPDATE are illegal words in a build without the latch controller, before any other check of theirs (30_encoding.md R85
case 3, 60_exceptions.md R207 stage 1). -/
def withLatchCtrl (op : BitVec 8) (run : State → State) (s : State) : State :=
  if s.cfg.hasLatchCtrl then run s else raise op .illegalCommand s

/-! ### The limit pass and the setter procedure -/

/-- `SatAdd12(x, d) = min(4095, x + d)`, the sum exact (40_store.md R116). -/
def satAdd12 (x : Gray) (d : Nat) : Gray := BitVec.ofNat 12 (min gsMax (x.toNat + d))

/-- Whether the limiter clamps a candidate (41_current_limiter.md R142). -/
def clamps (c : Config) (v : Gray) : Bool := c.limitEn && decide (c.maxAllowed.toNat < v.toNat)

/-- The effective value of a candidate (41_current_limiter.md R140, R142). -/
def limited (c : Config) (v : Gray) : Gray := if clamps c v then c.maxAllowed else v

/-- `LimitPass(S)`: the candidates after the pass and the number that were clamped (R142). -/
def limitPass (c : Config) (cand : List (Nat × Gray)) : List (Nat × Gray) × Nat :=
  (cand.map fun e => (e.1, limited c e.2), cand.countP fun e => clamps c e.2)

/-- Phases 3 and 4 of the setter procedure: limit the candidates, commit them at once, answer OK with the count (40_store.md R100). -/
def limitAndCommit (op : BitVec 8) (cand : List (Nat × Gray)) (s : State) : State :=
  let pass := limitPass s.cfg cand
  respond op .ok pass.2 0 0 0 { s with gs := Memory.writeAll s.gs pass.1 }

/-- The setter procedure: the check, then the candidates, limited and committed (40_store.md R100). -/
def setter (op : BitVec 8) (inRange : Bool) (cand : List (Nat × Gray)) (s : State) : State :=
  if inRange then limitAndCommit op cand s else raise op .outOfRange s

/-! ### The sequencer's own operations -/

/-- `phase <- q` for row `r` (43_latch.md R180). -/
def State.enterPhase (s : State) (q : Phase) (r : Nat) : State := { s with phase := q }.logged (.phase s.phase q r)

/-- How an operation that can be cut short ended. -/
inductive Progress where
  /-- it returned `ok` -/
  | ok (s : State)
  /-- it returned `fail`: the transport refused a byte -/
  | fail (s : State)
  /-- it does not return: reset aborted the command, or the transport never answers (R232, R245) -/
  | halted (s : State)
deriving DecidableEq, Repr

/-- Go on after `ok`; otherwise stop where it stopped. -/
def Progress.andThen (p : Progress) (next : State → Progress) : Progress :=
  match p with
  | .ok s => next s
  | .fail s => .fail s
  | .halted s => .halted s

/-- The transport's reply to the next byte: the next listed one, else a free draw (60_exceptions.md R205, log entry 4). -/
def State.nextReply (s : State) : Reply :=
  match s.replies with
  | r :: _ => r
  | [] => .answer (Config.transportAnswer s.attempts)

/-- The transport has answered byte `b` with `a`: `Byte(b, a)` (43_latch.md R194). -/
def State.byteAnswered (s : State) (b : Byte) (a : Answer) : State :=
  ({ s with replies := s.replies.tail, attempts := s.attempts + 1 }.logged (.byte b a)).tick

/-- The transport has taken a byte that it never answers. DESIGN CHOICE (log entry 6): a listed `never` is for that one byte. Whether the
transport answers again after a reset that ends the wait is an input like every reply: the byte sent next has the next listed reply, which
may be `never` too. -/
def State.byteUnanswered (s : State) : State := { s with replies := s.replies.tail }

/-- `Emit(b)` (00_scope.md R18, 60_exceptions.md R205): the block waits for the answer. A transport that never answers leaves it
waiting (70_reset_and_hazards.md R245, log entry 6) until reset, the one way to abort a transmission (60_exceptions.md R211). -/
def emit (b : Byte) (s : State) : Progress :=
  if s.resetDue then .halted s.assertReset
  else
    match s.nextReply with
    | .never => .halted (if s.resetAfter.isSome then s.byteUnanswered.assertReset else s.byteUnanswered)
    | .answer .ok => .ok (s.byteAnswered b .ok)
    | .answer .fail => .fail (s.byteAnswered b .fail)

/-! ### The packer (42_bit_packer.md) -/

/-- The empty accumulator (R163). -/
def Accumulator.empty : Accumulator := ⟨0, 0⟩

/-- `acc <- (acc << 12) | v; cnt <- cnt + 12` (R161). -/
def Accumulator.shiftIn (a : Accumulator) (v : Gray) : Accumulator := ⟨a.acc <<< 12 ||| v.setWidth 19, a.cnt + 12⟩

/-- `acc[cnt-1 : cnt-8]`, the oldest 8 bits (R161). -/
def Accumulator.oldest8 (a : Accumulator) : Byte := a.acc.extractLsb' (a.cnt - 8) 8

/-- `cnt <- cnt - 8; acc <- acc[cnt-1 : 0]`, the remainder (R161). -/
def Accumulator.drop8 (a : Accumulator) : Accumulator := ⟨(a.acc.setWidth (a.cnt - 8)).setWidth 19, a.cnt - 8⟩

/-- `(acc << (8 - cnt))[7:0]`: the leftover bits first, zero padding after them (R165). -/
def Accumulator.padded (a : Accumulator) : Byte := (a.acc <<< (8 - a.cnt)).setWidth 8

/-- The loop of `Push`: `n` times, take the oldest 8 bits off and emit them (R161). -/
def drain : Nat → State → Progress
  | 0, s => .ok s
  | n + 1, s => (emit s.accum.oldest8 { s with accum := s.accum.drop8 }).andThen (drain n)

/-- `Push(v)`: "while cnt >= 8" runs `cnt div 8` times, since each turn takes 8 (R161). -/
def push (v : Gray) (s : State) : Progress :=
  let a := s.accum.shiftIn v
  drain (a.cnt / 8) { s with accum := a }

/-- `Flush()` (R165). -/
def flush (s : State) : Progress :=
  if 0 < s.accum.cnt then emit s.accum.padded { s with accum := Accumulator.empty } else .ok s

/-- Push the value at each cursor position in turn (R166). -/
def pushWalk : List Cursor → State → Progress
  | [], s => .ok s
  | k :: ks, s => (push (Memory.read s.gs (cellAt s.cfg s.po k)) { s with cursor := some k }).andThen (pushWalk ks)

/-- The end of a row's shift: the accumulator is emptied and the cursor is gone (R163, 10_state.md R41). -/
def State.endShift (s : State) : State := { s with accum := Accumulator.empty, cursor := none }

/-- `ShiftRow(r)` (R166). -/
def shiftRow (r : Nat) (s : State) : Progress :=
  match (pushWalk (walk s.cfg r) { s.enterPhase .shifting r with accum := Accumulator.empty }).andThen flush with
  | .ok s' => .ok s'.endShift
  | .fail s' => .fail s'.endShift
  | .halted s' => .halted s'

/-! ### The latch pulse (43_latch.md R182) -/

/-- Drive `LATCH[r]` to a level (10_state.md R42). -/
def State.driveLine (s : State) (r : Nat) (level : Bool) : State :=
  { s with latch := tableWrite false s.latch r level }.logged (.line r level)

/-- `Pulse(r)`: the line goes from 0 to 1 and back to 0, and the pulse is complete once it is back at 0 (R182). Reset may come before
it or while the line is high, and then cuts it short (70_reset_and_hazards.md R232). -/
def pulse (r : Nat) (s : State) : Progress :=
  if s.resetDue then .halted s.assertReset
  else
    let high := (s.driveLine r true).tick
    if high.resetDue then .halted high.assertReset
    else .ok ((high.driveLine r false).logged (.latchPulse r)).tick

/-- The rows of UPDATE: each is shifted, then latched, before the next (43_latch.md R184, R186). -/
def updateRows : List Nat → State → Progress
  | [], s => .ok s
  | r :: rs, s =>
    match shiftRow r s with
    | .ok s1 => (pulse r (s1.enterPhase .latching r)).andThen fun s2 => updateRows rs (s2.enterPhase .idle r)
    | .fail s1 => .fail (s1.enterPhase .idle r)
    | .halted s1 => .halted s1

end Sys2Proof.Machine
end

