-- ==== Sys2Proof/Machine/Limiter.lean ====
section
/-! DEFINITION. The command of the Current Limiter (41_current_limiter.md R146). -/

namespace Sys2Proof.Machine

/-- ENFORCE_MAX_CURRENT: the limit pass over the whole store; it never fails (R146). -/
def execEnforceMaxCurrent (s : State) : Result :=
  .next (limitAndCommit Opcode.enforceMaxCurrent.code ((allCells s.cfg).map fun f => (f, Memory.read s.gs f)) s)

end Sys2Proof.Machine
end

