-- ==== Sys2Proof/Machine/PinOrders.lean ====
section
/-! DEFINITION. The commands of the Pin Order Table (40_store.md R124, R126). -/

namespace Sys2Proof.Machine

/-- Write the pin-order entry of some LEDs at once and answer OK (R124, R126). -/
def commitPinOrder (op : BitVec 8) (leds : List Nat) (o : PinOrder) (s : State) : State :=
  respond op .ok 0 0 0 0 { s with po := tableWriteAll (initialPinOrder s.cfg) s.po (leds.map fun led => (led, o)) }

/-- SET_PIN_ORDER led, p0, p1, p2 (R124). -/
def execSetPinOrder (led p0 p1 p2 : Nat) (s : State) : Result :=
  .next (match PinOrder.ofSlots? p0 p1 p2 with
    | some o =>
      if ledInRange s.cfg led then commitPinOrder Opcode.setPinOrder.code [led] o s
      else raise Opcode.setPinOrder.code .outOfRange s
    | none => raise Opcode.setPinOrder.code .outOfRange s)

/-- SET_PIN_ORDER_ALL p0, p1, p2 (R126). -/
def execSetPinOrderAll (p0 p1 p2 : Nat) (s : State) : Result :=
  .next (match PinOrder.ofSlots? p0 p1 p2 with
    | some o => commitPinOrder Opcode.setPinOrderAll.code (List.range (totalLeds s.cfg)) o s
    | none => raise Opcode.setPinOrderAll.code .outOfRange s)

end Sys2Proof.Machine
end

