-- ==== Sys2Proof/Machine/Store.lean ====
section
/-! DEFINITION. The setters and getters of the Grayscale Store (40_store.md R101 to R122). -/

namespace Sys2Proof.Machine

/-- A value operand as a candidate: in range it is the value itself (R101). -/
def candidate (v : Nat) : Gray := BitVec.ofNat 12 v

/-- One of three values by the colour of a cell (R104, R112). -/
def byColour (r g b : Nat) (c : Nat) : Nat := if c = 0 then r else if c = 1 then g else b

/-- Candidates for the three cells of an LED, red first. -/
def ledCandidates (led : Nat) (r g b : Gray) : List (Nat × Gray) := (ledCells led).zip [r, g, b]

/-- SET_ALL v (R101). -/
def execSetAll (v : Nat) (s : State) : Result :=
  .next (setter Opcode.setAll.code (valueInRange v) ((allCells s.cfg).map fun f => (f, candidate v)) s)

/-- SET_ALL_RGB r, g, b (R104). -/
def execSetAllRgb (r g b : Nat) (s : State) : Result :=
  .next (setter Opcode.setAllRgb.code (valueInRange r && valueInRange g && valueInRange b)
    ((allCells s.cfg).map fun f => (f, candidate (byColour r g b (colourOfChannel f)))) s)

/-- SET_LED_MONO led, v (R108). -/
def execSetLedMono (led v : Nat) (s : State) : Result :=
  .next (setter Opcode.setLedMono.code (ledInRange s.cfg led && valueInRange v)
    (ledCandidates led (candidate v) (candidate v) (candidate v)) s)

/-- SET_LED_RGB led, r, g, b (R112). -/
def execSetLedRgb (led r g b : Nat) (s : State) : Result :=
  .next (setter Opcode.setLedRgb.code (ledInRange s.cfg led && valueInRange r && valueInRange g && valueInRange b)
    (ledCandidates led (candidate r) (candidate g) (candidate b)) s)

/-- SET_LED_APPEND led, dr, dg, db: saturating sums with the current values (R114, R116). -/
def execSetLedAppend (led dr dg db : Nat) (s : State) : Result :=
  .next (setter Opcode.setLedAppend.code (ledInRange s.cfg led && valueInRange dr && valueInRange dg && valueInRange db)
    (((ledCells led).zip [dr, dg, db]).map fun e => (e.1, satAdd12 (Memory.read s.gs e.1) e.2)) s)

/-- SET_CHANNEL f, v (R118). -/
def execSetChannel (f v : Nat) (s : State) : Result :=
  .next (setter Opcode.setChannel.code (channelInRange s.cfg f && valueInRange v) [(f, candidate v)] s)

/-- GET_CHANNEL led, c (R120). -/
def execGetChannel (led c : Nat) (s : State) : Result :=
  .next (if ledInRange s.cfg led && decide (c < 3) then
      respond Opcode.getChannel.code .ok 0 (Memory.read s.gs (cellIndex (chipOfLed led) (ledInChip led) c)) 0 0 s
    else raise Opcode.getChannel.code .outOfRange s)

/-- GET_LED chip, l (R122). -/
def execGetLed (chip l : Nat) (s : State) : Result :=
  .next (if chipInRange s.cfg chip && decide (l < 8) then
      respond Opcode.getLed.code .ok 0 (Memory.read s.gs (cellIndex chip l 0)) (Memory.read s.gs (cellIndex chip l 1))
        (Memory.read s.gs (cellIndex chip l 2)) s
    else raise Opcode.getLed.code .outOfRange s)

end Sys2Proof.Machine
end

