-- ==== Sys2Proof/Machine/Transmit.lean ====
section
/-! DEFINITION. The transmit command of the Bit Packer (42_bit_packer.md R170) and the commands of the Latch Controller
(43_latch.md R186, R188). -/

namespace Sys2Proof.Machine

/-- SHIFT_ROW r (R170); a transport failure ends it as 60_exceptions.md R209 says. -/
def execShiftRow (r : Nat) (s : State) : Result :=
  .next (if rowInRange s.cfg r then
      match shiftRow r { s with pendingRow := none } with
      | .ok s' => respond Opcode.shiftRow.code .ok 0 0 0 0 { s'.enterPhase .idle r with pendingRow := some r }
      | .fail s' => respond Opcode.shiftRow.code .transportError 0 0 0 0 (s'.enterPhase .idle r)
      | .halted s' => s'
    else raise Opcode.shiftRow.code .outOfRange s)

/-- LATCH r once its word is legal: the range check, the readiness check, the pulse (R188). -/
def latchRow (r : Nat) (s : State) : State :=
  if rowInRange s.cfg r then
    if s.pendingRow = some r then
      match pulse r (s.enterPhase .latching r) with
      | .ok s' => respond Opcode.latch.code .ok 0 0 0 0 { s'.enterPhase .idle r with pendingRow := none }
      | .fail s' => s'
      | .halted s' => s'
    else raise Opcode.latch.code .notReady s
  else raise Opcode.latch.code .outOfRange s

/-- LATCH r (R188, R190). -/
def execLatch (r : Nat) (s : State) : Result := .next (withLatchCtrl Opcode.latch.code (latchRow r) s)

/-- UPDATE once its word is legal: every row in `RowSeq` order (R186). -/
def updateAll (s : State) : State :=
  match updateRows (rowSeq s.cfg) { s with pendingRow := none } with
  | .ok s' => respond Opcode.update.code .ok 0 0 0 0 s'
  | .fail s' => respond Opcode.update.code .transportError 0 0 0 0 s'
  | .halted s' => s'

/-- UPDATE (R186, R190). -/
def execUpdate (s : State) : Result := .next (withLatchCtrl Opcode.update.code updateAll s)

end Sys2Proof.Machine
end

