-- ==== Sys2Proof/Machine/Dispatch.lean ====
section
/-! DEFINITION. The dispatch of a command to its meaning, one arm per constructor (30_encoding.md R83). -/

namespace Sys2Proof.Machine

def exec (i : Instr) (s : State) : Host.Outcome State Fault Refusal :=
  match i with
  | .setAll v => Sys2Proof.Machine.execSetAll v s
  | .setAllRgb r g b => Sys2Proof.Machine.execSetAllRgb r g b s
  | .setLedMono led v => Sys2Proof.Machine.execSetLedMono led v s
  | .setLedRgb led r g b => Sys2Proof.Machine.execSetLedRgb led r g b s
  | .setLedAppend led dr dg db => Sys2Proof.Machine.execSetLedAppend led dr dg db s
  | .setChannel f v => Sys2Proof.Machine.execSetChannel f v s
  | .getChannel led c => Sys2Proof.Machine.execGetChannel led c s
  | .getLed chip l => Sys2Proof.Machine.execGetLed chip l s
  | .enforceMaxCurrent => Sys2Proof.Machine.execEnforceMaxCurrent s
  | .setPinOrder led p0 p1 p2 => Sys2Proof.Machine.execSetPinOrder led p0 p1 p2 s
  | .setPinOrderAll p0 p1 p2 => Sys2Proof.Machine.execSetPinOrderAll p0 p1 p2 s
  | .shiftRow r => Sys2Proof.Machine.execShiftRow r s
  | .latch r => Sys2Proof.Machine.execLatch r s
  | .update => Sys2Proof.Machine.execUpdate s

end Sys2Proof.Machine
end

