-- ==== Sys2Proof/Machine/Port.lean ====
section
/-! DEFINITION. The command port and the response port (60_exceptions.md R206), what happens when the block can only wait, and one
advance of the block between commands. -/

namespace Sys2Proof.Machine

/-- The block waits, without a timeout (93_implementation_defined.md rows 10 and 16): only reset ends the wait. Without one, the run
has no next step (70_reset_and_hazards.md R245, log entry 7). -/
def waitForReset (f : Fault) (s : State) : Result :=
  if s.resetAfter.isSome then .next s.assertReset else .fault f

/-- The host takes the response from the port (R206). -/
def State.responseTaken (s : State) : State := ({ s with rspPort := none } : State).tick

/-- The port takes the oldest offered word; the host goes on holding the later ones (R206). -/
def State.commandAccepted (s : State) (rest : List Word) : State := ({ s with offered := rest } : State).tick

/-- Run one accepted command word: an illegal one answers ILLEGAL_COMMAND, with the word's `OP` as ROP (60_exceptions.md R202,
R207, R208). -/
def runWord (w : Word) (s : State) : Result :=
  match decode w with
  | .ok i => exec i s
  | .error _ => .next (raise (opField w) .illegalCommand s)

/-- One advance of the block (R206, 70_reset_and_hazards.md R230, R232): reset first; then a transmission that is still waiting for
the transport (R245); then the response the host has not taken; then the next command. -/
def advance (s : State) : Result :=
  if s.inReset then releaseReset s
  else if s.resetDue then .next s.assertReset
  else
    match s.phase with
    | .shifting => waitForReset .transportNeverAnswers s
    | .latching => waitForReset .transportNeverAnswers s
    | .idle =>
      match s.rspPort with
      | some _ => if s.hostReady then .next s.responseTaken else waitForReset .responseNotTaken s
      | none =>
        match s.offered with
        | [] => waitForReset .noCommandOffered s
        | w :: rest => runWord w (s.commandAccepted rest)

/-- `s` with the word `w` offered first, in front of the port of an idle block whose last response is taken and whose reset is not
coming, so that the next step takes it and runs it (log entry 15). -/
def State.offerFirst (s : State) (w : Word) : State :=
  { s with offered := w :: s.offered, rspPort := none, phase := .idle, inReset := false, resetAfter := none }

/-- The observable trace: the three kinds of event of 43_latch.md R194, in order. -/
def Event.observable : Event → Bool
  | .byte _ _ => true
  | .latchPulse _ => true
  | .resp _ => true
  | .phase _ _ _ => false
  | .line _ _ => false
  | .resetAsserted => false

/-- The block's trace (43_latch.md R194). -/
def State.trace (s : State) : List Event := s.log.filter Event.observable

end Sys2Proof.Machine
end

