-- ==== Sys2Proof/Machine/Step.lean ====
section
/-! DEFINITION. One step of the block: one whole command, or one move of the ports or of reset between commands
(20_memory.md R72, log entry 3). -/

namespace Sys2Proof.Machine

/-- One step (60_exceptions.md R206, 70_reset_and_hazards.md R230). -/
def step (s : State) : Host.Outcome State Fault Refusal := advance s

/-- `s` with an instruction of the opcode table placed where the next step takes its command: first at the command port. The block
fetches nothing (20_memory.md R76), so this stands for the host's offer. -/
def State.withFetchWord (s : State) (nbits w : Nat) : State := s.offerFirst (tableWord nbits w)

end Sys2Proof.Machine
end

