-- ==== Sys2Proof/Safety.lean ====
section
/-! DEFINITION. What a safe run is, in the terms the statements use: the invariant of the state between steps (10_state.md R31 to R42,
41_current_limiter.md R148), and the order of outputs that 43_latch.md R180, R182, R184 and R192 allow, as a monitor that reads the
model's record. -/

namespace Sys2Proof.Machine

/-! ### The invariant of the state between steps -/

/-- The store is in canonical form and lists cells of the store only (10_state.md R30). -/
def storeSound (s : State) : Bool := Memory.wf s.gs && tableBelow (totalChannels s.cfg) s.gs

/-- The pin-order table is in canonical form and lists LEDs of the chain only (10_state.md R32). -/
def pinTableSound (s : State) : Bool := tableWf (initialPinOrder s.cfg) s.po && tableBelow (totalLeds s.cfg) s.po

/-- When limiting is on, no listed cell is above `MAX_ALLOWED` (41_current_limiter.md R148); an unlisted cell reads 0. -/
def withinLimit (s : State) : Bool := s.gs.all fun e => !s.cfg.limitEn || decide (e.2.toNat ≤ s.cfg.maxAllowed.toNat)

/-- A pending row is a row of the chain (10_state.md R40). -/
def pendingSound (s : State) : Bool :=
  match s.pendingRow with
  | none => true
  | some r => rowInRange s.cfg r

/-- Between steps the sequencer is at rest, with an empty accumulator and no cursor, unless a transmission still waits for the
transport or reset is asserted (10_state.md R38, R39, R41, 70_reset_and_hazards.md R245). A waiting transmission has put no response
on the port (30_encoding.md R88). -/
def sequencerSound (s : State) : Bool :=
  s.inReset ||
    match s.phase with
    | .idle => decide (s.accum = Accumulator.empty) && s.cursor.isNone
    | .shifting => s.cursor.isSome && s.rspPort.isNone
    | .latching => false

/-- Between steps every latch line is at 0 (10_state.md R42, 43_latch.md R182). -/
def linesLow (s : State) : Bool := s.latch.isEmpty

/-- The invariant of the state between steps. -/
def State.Inv (s : State) : Prop :=
  legalConfig s.cfg = true ∧ storeSound s = true ∧ pinTableSound s = true ∧ withinLimit s = true ∧ pendingSound s = true ∧
    sequencerSound s = true ∧ linesLow s = true

/-! ### The order of outputs -/

/-- The phase transitions of 43_latch.md R180. -/
def phaseEdge : Phase → Phase → Bool
  | .idle, .shifting => true
  | .shifting, .latching => true
  | .shifting, .idle => true
  | .idle, .latching => true
  | .latching, .idle => true
  | .idle, .idle => false
  | .shifting, .shifting => false
  | .latching, .latching => false
  | .latching, .shifting => false

/-- What a monitor of the outputs remembers: the phase, the latch line at 1 if any, and the row of the last shift with the number of
its bytes the transport has accepted, none once a byte failed or the row was latched. -/
structure Monitor where
  phase : Phase
  high : Option Nat
  run : Option (Nat × Nat)
deriving DecidableEq, Repr

/-- The monitor at reset. -/
def Monitor.start : Monitor := ⟨.idle, none, none⟩

/-- The monitor after one entry of the record, none where R180, R182, R184 or R192 forbids it. `n` is the number of chips in a row, so
a whole row is `36 * n` bytes (42_bit_packer.md R168). -/
def Monitor.next (n : Nat) (m : Monitor) : Event → Option Monitor
  | .phase p q r =>
    if p = m.phase ∧ phaseEdge p q ∧ m.high = none ∧ (q = .latching → m.run = some (r, 36 * n)) then
      some { m with phase := q, run := if q = .shifting then some (r, 0) else m.run }
    else none
  | .byte _ a =>
    match m.run with
    | some (r, k) =>
      if m.phase = .shifting ∧ m.high = none ∧ k < 36 * n then
        some { m with run := if a = .ok then some (r, k + 1) else none }
      else none
    | none => none
  | .line r level =>
    if level then (if m.phase = .latching ∧ m.high = none then some { m with high := some r } else none)
    else (if m.high = some r then some { m with high := none } else none)
  | .latchPulse r =>
    if m.phase = .latching ∧ m.high = none ∧ m.run = some (r, 36 * n) then some { m with run := none } else none
  | .resp _ => if m.phase = .idle ∧ m.high = none then some m else none
  | .resetAsserted => some Monitor.start

/-- The monitor after a record. What stands before the last assertion of reset does not count: the configuration may have been
another then. -/
def monitorFrom (n : Nat) : Option Monitor → List Event → Option Monitor
  | m, [] => m
  | m, e :: es => monitorFrom n (if e = .resetAsserted then some Monitor.start else m.bind fun m => m.next n e) es

/-- The first entries of a record, up to the assertion of reset if there is one: what the block did before reset ended it. -/
def beforeReset (es : List Event) : List Event := es.takeWhile fun e => decide (e ≠ .resetAsserted)

/-- The record keeps the order, and the monitor agrees with the state: its phase is the state's, no line is at 1, and a pending row is
one whose every byte was accepted by the last shift and that has not been latched since (10_state.md R40). While reset is held, its
assertion is the last entry. -/
def State.OrderKept (s : State) : Prop :=
  ∃ m, monitorFrom (chipsPerRow s.cfg) (some Monitor.start) s.log = some m ∧ m.high = none ∧ s.latch = [] ∧
    (if s.inReset then s.log.getLast? = some .resetAsserted
     else m.phase = s.phase ∧ s.phase ≠ .latching ∧ ∀ r, s.pendingRow = some r → m.run = some (r, 36 * chipsPerRow s.cfg))

end Sys2Proof.Machine
end

