-- ==== Sys2Proof/Certificates/Slice0/Obligations.lean ====
section
/-! DEFINITION. The statements for the provers. Each says what a command, a port, reset or the whole block does, for every configuration
and every surroundings; the ones about one command give its whole next state, and so its frame. -/

namespace Sys2Proof.Claims

open Sys2Proof.Machine

/-- No assertion of reset is coming while the command runs. What a command does when one is, `ResetAbortsAnyCommand`,
`ResetAfterSomeBytesCutsTheRow` and `ResetInsidePulseCutsItShort` say. -/
abbrev NoReset (s : State) : Prop := s.resetAfter = none

/-- `s` after a response `w` was put on the port and recorded, everything else as it was (30_encoding.md R88; the
record is the model's, log entry 10). -/
def answered (s : State) (w : Word) : State := { s with rspPort := some w, log := s.log ++ [.resp w] }

/-- `s` after the command of `op` answered the error `e`: a response with COUNT 0 and all data 0, nothing else (60_exceptions.md R208). -/
def raised (s : State) (op : BitVec 8) (e : Status) : State := answered s (responseWord op e 0 0 0 0)

/-- A command word from its fields, from bit 127 down (30_encoding.md R80). -/
def word (op aux : BitVec 8) (idx va vb vc : Nat) : Word :=
  op ++ aux ++ 0#16 ++ BitVec.ofNat 32 idx ++ BitVec.ofNat 16 va ++ BitVec.ofNat 16 vb ++ BitVec.ofNat 16 vc ++ 0#16

/-- The effective value of a channel: `min(requested, MAX_ALLOWED)` with limiting on, the request with limiting off
(41_current_limiter.md R140, R150). -/
def effective (c : Config) (v : Nat) : Nat := if c.limitEn then min v c.maxAllowed.toNat else v

/-- 1 for a request that the limiter clamps, else 0 (41_current_limiter.md R142). -/
def clampCount (c : Config) (v : Nat) : Nat := if c.limitEn = true ∧ c.maxAllowed.toNat < v then 1 else 0

/-- The value of the cell at a flat channel index, as a natural. -/
def cell (m : Memory) (f : Nat) : Nat := (m.read f).toNat

/-- `m` is `old` with the three cells of the LED overwritten by `r`, `g`, `b`, red first (20_memory.md R61, R62). -/
def LedSet (m old : Memory) (led r g b : Nat) : Prop :=
  cell m (cellIndex (led / 8) (led % 8) 0) = r ∧ cell m (cellIndex (led / 8) (led % 8) 1) = g ∧
    cell m (cellIndex (led / 8) (led % 8) 2) = b ∧ ∀ f, f / 3 ≠ led → m.read f = old.read f

/-- The commands of 40_store.md: the setters, the getters and the pin-order commands. -/
def storeFamily : Instr → Bool
  | .setAll _ => true
  | .setAllRgb _ _ _ => true
  | .setLedMono _ _ => true
  | .setLedRgb _ _ _ _ => true
  | .setLedAppend _ _ _ _ => true
  | .setChannel _ _ => true
  | .getChannel _ _ => true
  | .getLed _ _ => true
  | .enforceMaxCurrent => false
  | .setPinOrder _ _ _ _ => true
  | .setPinOrderAll _ _ _ => true
  | .shiftRow _ => false
  | .latch _ => false
  | .update => false

/-- The setters and getters: the commands of 40_store.md R101 to R122. -/
def setterOrGetter : Instr → Bool
  | .setPinOrder _ _ _ _ => false
  | .setPinOrderAll _ _ _ => false
  | i => storeFamily i

/-- The table of 60_exceptions.md R201: when a command raises OUT_OF_RANGE, for `C` chips and `L` rows. -/
def outOfRange (C L : Nat) : Instr → Prop
  | .setAll v => v > 4095
  | .setAllRgb r g b => r > 4095 ∨ g > 4095 ∨ b > 4095
  | .setLedMono led v => led ≥ 8 * C ∨ v > 4095
  | .setLedRgb led r g b => led ≥ 8 * C ∨ r > 4095 ∨ g > 4095 ∨ b > 4095
  | .setLedAppend led dr dg db => led ≥ 8 * C ∨ dr > 4095 ∨ dg > 4095 ∨ db > 4095
  | .setChannel f v => f ≥ 24 * C ∨ v > 4095
  | .getChannel led c => led ≥ 8 * C ∨ c ≥ 3
  | .getLed chip l => chip ≥ C ∨ l ≥ 8
  | .enforceMaxCurrent => False
  | .setPinOrder led p0 p1 p2 => led ≥ 8 * C ∨ ¬ ([p0, p1, p2].Perm [0, 1, 2])
  | .setPinOrderAll p0 p1 p2 => ¬ ([p0, p1, p2].Perm [0, 1, 2])
  | .shiftRow r => r ≥ L
  | .latch r => r ≥ L
  | .update => False

/-- LATCH and UPDATE, the commands that need the latch controller (30_encoding.md R85 case 3). -/
def needsLatchCtrl : Instr → Bool
  | .latch _ => true
  | .update => true
  | _ => false

/-- The bits 127:120 aside, the operand bits of each command as (high bit, low bit) ranges (30_encoding.md R84). -/
def operandBits : Opcode → List (Nat × Nat)
  | .setAll => [(63, 48)]
  | .setAllRgb => [(63, 16)]
  | .setLedMono => [(95, 64), (63, 48)]
  | .setLedRgb => [(95, 64), (63, 16)]
  | .setLedAppend => [(95, 64), (63, 16)]
  | .setChannel => [(95, 64), (63, 48)]
  | .getChannel => [(119, 112), (95, 64)]
  | .getLed => [(119, 112), (95, 64)]
  | .enforceMaxCurrent => []
  | .setPinOrder => [(117, 112), (95, 64)]
  | .setPinOrderAll => [(117, 112)]
  | .shiftRow => [(95, 64)]
  | .latch => [(95, 64)]
  | .update => []

/-- A word is illegal in a build (30_encoding.md R85): its `OP` is 0x00 or one of 0x0F to 0xFF; or a bit outside its command's operand
fields is 1; or it is a LATCH or UPDATE word in a build without the latch controller. -/
def IllegalWord (c : Config) (w : Word) : Prop :=
  let op := w.extractLsb' 120 8
  (op = 0x00 ∨ 0x0F ≤ op.toNat) ∨
    (∃ o : Opcode, op = o.code ∧ ∃ b < 120, (∀ hl ∈ operandBits o, ¬ (hl.2 ≤ b ∧ b ≤ hl.1)) ∧ w.getLsbD b = true) ∨
    (c.hasLatchCtrl = false ∧ (op = 0x0D ∨ op = 0x0E))

/-- Bytes that the transport accepted. -/
def bytesOk (bs : List Byte) : List Event := bs.map fun b => .byte b .ok

/-- `RowBytes(r)` of a state. -/
def bytesOf (s : State) (r : Nat) : List Byte := rowBytes s.cfg s.gs s.po r

/-- The bytes of one row of a state: `36 * N`. -/
def rowLen (s : State) : Nat := 36 * s.cfg.numTlcOneRow.toNat

/-- `n` answers `ok`, as the input that the model reads them from (log entry 4). -/
def oks (n : Nat) : List Reply := List.replicate n (.answer .ok)

/-- What the record gets for one row of UPDATE: its shift, then its pulse (43_latch.md R180, R182, R184). -/
def rowEvents (s : State) (r : Nat) : List Event :=
  [.phase .idle .shifting r] ++ bytesOk (bytesOf s r) ++
    [.phase .shifting .latching r, .line r true, .line r false, .latchPulse r, .phase .latching .idle r]

/-- What an observer sees of one row of UPDATE: the row's bytes, accepted, and its pulse (43_latch.md R194). -/
def rowTrace (s : State) (r : Nat) : List Event := bytesOk (bytesOf s r) ++ [.latchPulse r]

/-- Position `i` of `n` in a direction: `i` ascending, `n - 1 - i` descending (42_bit_packer.md R160). -/
def place (o : Order) (n i : Nat) : Nat :=
  match o with
  | .asc => i
  | .desc => n - 1 - i

/-- The block is ready to take a command: idle, its last response taken, reset neither asserted nor due (60_exceptions.md R206). -/
def Ready (s : State) : Prop := s.inReset = false ∧ s.resetDue = false ∧ s.phase = .idle ∧ s.rspPort = none

end Sys2Proof.Claims

open Sys2Proof Sys2Proof.Machine Sys2Proof.Claims

/-! ### Encoding (30_encoding.md) -/

/-- Decoding the word of a well-formed command gives the command back (R80 to R86, R91). -/
def Obligations.DecodeEncodeRoundTrip : Prop :=
  ∀ i : Instr, i.wellFormed = true → decode (encode i) = .ok i

/-- A word that decodes decodes to a well-formed command, and is that command's word: each command has one word (R84, R85). -/
def Obligations.EncodeDecodeRoundTrip : Prop :=
  ∀ (w : Word) (i : Instr), decode w = .ok i → i.wellFormed = true ∧ encode i = w

/-- Words written out from R91 and 95_test_vectors.md decode to the commands they stand for. -/
def Obligations.SpecWordsDecode : Prop :=
  decode 0x04000000_00000000_006400C8_012C0000 = .ok (.setLedRgb 0 100 200 300) ∧
    decode 0x0B210000_00000000_00000000_00000000 = .ok (.setPinOrderAll 1 0 2) ∧
    decode 0x07020000_00000001_00000000_00000000 = .ok (.getChannel 1 2) ∧
    decode 0x0C000000_00000001_00000000_00000000 = .ok (.shiftRow 1) ∧
    decode 0x09000000_00000000_00000000_00000000 = .ok .enforceMaxCurrent ∧
    decode 0x0E000000_00000000_00000000_00000000 = .ok .update

/-- R84: a word decodes as a command of an opcode exactly when `OP` is that opcode's code and every bit outside its operand fields
is 0. -/
def Obligations.DecodesExactlyItsRow : Prop :=
  ∀ (w : Word) (o : Opcode),
    (∃ i, decode w = .ok i ∧ i.opcode = o) ↔
      (w.extractLsb' 120 8 = o.code ∧
        ∀ b < 120, (∀ hl ∈ operandBits o, ¬ (hl.2 ≤ b ∧ b ≤ hl.1)) → w.getLsbD b = false)

/-- R202: a word that R85 makes illegal answers ILLEGAL_COMMAND with the word's own `OP`, and nothing else changes (R208) but that the
port has taken it. -/
def Obligations.IllegalWordIsAnswered : Prop :=
  ∀ (s : State) (w : Word) (rest : List Word), Ready s → NoReset s → s.offered = w :: rest → IllegalWord s.cfg w →
    step s = .next (raised { s with offered := rest } (w.extractLsb' 120 8) .illegalCommand)

/-- R86: the slots of a code are its 2-bit fields; a code is a pin-order entry exactly when they are 0, 1 and 2 in some order, and the
entry then sends each colour in its slot. -/
def Obligations.PermutationCodesAreThePermutations : Prop :=
  ∀ code : BitVec 6,
    let p0 := (code.extractLsb' 0 2).toNat
    let p1 := (code.extractLsb' 2 2).toNat
    let p2 := (code.extractLsb' 4 2).toNat
    ((PinOrder.ofCode? code).isSome = true ↔ [p0, p1, p2].Perm [0, 1, 2]) ∧
      ∀ o, PinOrder.ofCode? code = some o →
        (o.slot .red).val = p0 ∧ (o.slot .green).val = p1 ∧ (o.slot .blue).val = p2

/-- R87, R88: the fields of a response word. -/
def Obligations.ResponseWordFields : Prop :=
  ∀ (op : BitVec 8) (st : Status) (n : Nat) (d0 d1 d2 : Gray),
    let w := responseWord op st n d0 d1 d2
    w.extractLsb' 120 8 =
        (match st with
          | .ok => 0x00#8
          | .outOfRange => 0x01#8
          | .transportError => 0x02#8
          | .illegalCommand => 0x03#8
          | .notReady => 0x04#8) ∧
      w.extractLsb' 112 8 = op ∧ w.extractLsb' 96 16 = 0#16 ∧ w.extractLsb' 64 32 = BitVec.ofNat 32 n ∧
      (w.extractLsb' 48 16).toNat = d0.toNat ∧ (w.extractLsb' 32 16).toNat = d1.toNat ∧
      (w.extractLsb' 16 16).toNat = d2.toNat ∧ w.extractLsb' 0 16 = 0#16

/-- R88: with no reset coming and a transport that answers, every command puts exactly one response on the port, as the last entry of
its record, with its own `OP` as ROP. -/
def Obligations.EveryCommandAnswersOnce : Prop :=
  ∀ (i : Instr) (s t : State), NoReset s → .never ∉ s.replies → exec i s = .next t →
    ∃ w es, t.log = s.log ++ es ++ [.resp w] ∧ (∀ v, .resp v ∉ es) ∧ t.rspPort = some w ∧
      w.extractLsb' 112 8 = i.opcode.code

/-- R91: the word of fields is `OP<<120 | AUX<<112 | IDX<<64 | VA<<48 | VB<<32 | VC<<16`. -/
def Obligations.WordIsItsShiftedFields : Prop :=
  ∀ (op aux : BitVec 8) (idx : BitVec 32) (va vb vc : BitVec 16),
    assembleWord op aux idx va vb vc =
      op.setWidth 128 <<< 120 ||| aux.setWidth 128 <<< 112 ||| idx.setWidth 128 <<< 64 ||| va.setWidth 128 <<< 48 |||
        vb.setWidth 128 <<< 32 ||| vc.setWidth 128 <<< 16

/-! ### Index maps and traversal (20_memory.md, 42_bit_packer.md) -/

/-- R62: the flat channel index and the cell `(ch, l, c)` name each other. -/
def Obligations.ChannelIndexIsOneToOne : Prop :=
  (∀ f, cellIndex (f / 24) (f % 24 / 3) (f % 3) = f) ∧
    ∀ ch l c, l < 8 → c < 3 →
      chipOfChannel (cellIndex ch l c) = ch ∧ ledOfChannel (cellIndex ch l c) = l ∧ colourOfChannel (cellIndex ch l c) = c

/-- 10_state.md R37: every chip of the chain belongs to exactly one latch row, row `r` controlling the chips `[r*N, r*N + N)`. -/
def Obligations.LatchMapPartitionsTheChips : Prop :=
  ∀ (c : Config) (ch : Nat),
    (∀ r, ch ∈ latchMap c r ↔ r * c.numTlcOneRow.toNat ≤ ch ∧ ch < r * c.numTlcOneRow.toNat + c.numTlcOneRow.toNat) ∧
      (ch < c.numLatches.toNat * c.numTlcOneRow.toNat → ∃ r < c.numLatches.toNat, ∀ q, ch ∈ latchMap c q ↔ q = r)

/-- R160, R162, R164: the packer's walk of row `r` visits each of the row's LED slots exactly once: `24*N` positions, none twice, each a
chip of the row, an LED of the chip and a slot. It goes chip by chip in the direction of `CHIP_ORDER`, within a chip LED by LED in the
direction of `LED_ORDER`, and within an LED slot 0, 1, 2. -/
def Obligations.WalkVisitsEachSlotOnce : Prop :=
  ∀ (c : Config) (r : Nat),
    (walk c r).Nodup ∧ (walk c r).length = 24 * c.numTlcOneRow.toNat ∧
      (∀ k, k ∈ walk c r ↔ k.row = r ∧ k.chip ∈ latchMap c r ∧ k.led < 8) ∧
      ∀ (i j : Nat) (p : Fin 3), i < c.numTlcOneRow.toNat → j < 8 →
        (walk c r)[24 * i + 3 * j + p.val]? =
          some ⟨r, r * c.numTlcOneRow.toNat + place c.chipOrder c.numTlcOneRow.toNat i, place c.ledOrder 8 j, p⟩

/-- R162: slot `p` carries the one colour whose entry is `p`. -/
def Obligations.ColourAtSlotIsUnique : Prop :=
  ∀ (o : PinOrder) (p : Fin 3) (c : Colour), o.colourAt p = c ↔ o.slot c = p

/-- R168: a row is exactly `288*N` bits. -/
def Obligations.RowStreamLength : Prop :=
  ∀ (c : Config) (gs : Memory) (po : Table PinOrder) (r : Nat),
    (rowStream c gs po r).length = 288 * c.numTlcOneRow.toNat

/-- R169: when one LED's entry is replaced by the entry that swaps the slots of two colours, the fields of those two slots in that LED's
group of the row's stream trade places and nothing else changes: the stream is the same walk, with the value at each slot of that LED
taken from the swapped slot. -/
def Obligations.SwappingSlotsSwapsFields : Prop :=
  ∀ (c : Config) (gs : Memory) (po po' : Table PinOrder) (led r : Nat) (c1 c2 : Colour) (o o' : PinOrder),
    pinOrderOf c po led = o → pinOrderOf c po' led = o' → (∀ q, q ≠ led → pinOrderOf c po' q = pinOrderOf c po q) →
    o'.slot c1 = o.slot c2 → o'.slot c2 = o.slot c1 → (∀ x, x ≠ c1 → x ≠ c2 → o'.slot x = o.slot x) →
    rowStream c gs po' r =
      (walk c r).flatMap fun k =>
        bits12 (gs.read (cellAt c po
          (if k.chip * 8 + k.led = led then
            { k with slot := if k.slot = o.slot c1 then o.slot c2 else if k.slot = o.slot c2 then o.slot c1 else k.slot }
          else k)))

/-! ### Setters and getters (40_store.md) -/

/-- R116: `SatAdd12(x, d) = min(4095, x + d)`. -/
def Obligations.SaturatingAddIsExact : Prop :=
  ∀ (x : Gray) (d : Nat), d ≤ 4095 → (satAdd12 x d).toNat = min 4095 (x.toNat + d)

/-- R101: SET_ALL. -/
def Obligations.SetAllWritesEveryCell : Prop :=
  ∀ (v : Nat) (s : State), NoReset s → Memory.wf s.gs = true →
    encode (.setAll v) = word 0x01 0 0 v 0 0 ∧
      (v ≤ 4095 → ∃ m : Memory, m.wf = true ∧
        exec (.setAll v) s = .next (answered { s with gs := m }
          (responseWord 0x01 .ok (24 * chips s.cfg * clampCount s.cfg v) 0 0 0)) ∧
        (∀ f < 24 * chips s.cfg, cell m f = effective s.cfg v) ∧ ∀ f ≥ 24 * chips s.cfg, m.read f = Memory.read s.gs f) ∧
      (v > 4095 → exec (.setAll v) s = .next (raised s 0x01 .outOfRange))

/-- R104: SET_ALL_RGB. -/
def Obligations.SetAllRgbWritesEveryLed : Prop :=
  ∀ (r g b : Nat) (s : State), NoReset s → Memory.wf s.gs = true →
    encode (.setAllRgb r g b) = word 0x02 0 0 r g b ∧
      (r ≤ 4095 ∧ g ≤ 4095 ∧ b ≤ 4095 → ∃ m : Memory, m.wf = true ∧
        exec (.setAllRgb r g b) s = .next (answered { s with gs := m }
          (responseWord 0x02 .ok
            (8 * chips s.cfg * (clampCount s.cfg r + clampCount s.cfg g + clampCount s.cfg b)) 0 0 0)) ∧
        (∀ ch < chips s.cfg, ∀ l < 8,
          cell m (cellIndex ch l 0) = effective s.cfg r ∧ cell m (cellIndex ch l 1) = effective s.cfg g ∧
            cell m (cellIndex ch l 2) = effective s.cfg b) ∧
        ∀ f ≥ 24 * chips s.cfg, m.read f = Memory.read s.gs f) ∧
      (r > 4095 ∨ g > 4095 ∨ b > 4095 → exec (.setAllRgb r g b) s = .next (raised s 0x02 .outOfRange))

/-- R108: SET_LED_MONO. -/
def Obligations.SetLedMonoWritesOneLed : Prop :=
  ∀ (led v : Nat) (s : State), NoReset s → Memory.wf s.gs = true →
    encode (.setLedMono led v) = word 0x03 0 led v 0 0 ∧
      (led < 8 * chips s.cfg ∧ v ≤ 4095 → ∃ m : Memory, m.wf = true ∧
        exec (.setLedMono led v) s = .next (answered { s with gs := m }
          (responseWord 0x03 .ok (3 * clampCount s.cfg v) 0 0 0)) ∧
        LedSet m s.gs led (effective s.cfg v) (effective s.cfg v) (effective s.cfg v)) ∧
      (led ≥ 8 * chips s.cfg ∨ v > 4095 → exec (.setLedMono led v) s = .next (raised s 0x03 .outOfRange))

/-- R112: SET_LED_RGB. -/
def Obligations.SetLedRgbWritesOneLed : Prop :=
  ∀ (led r g b : Nat) (s : State), NoReset s → Memory.wf s.gs = true →
    encode (.setLedRgb led r g b) = word 0x04 0 led r g b ∧
      (led < 8 * chips s.cfg ∧ r ≤ 4095 ∧ g ≤ 4095 ∧ b ≤ 4095 → ∃ m : Memory, m.wf = true ∧
        exec (.setLedRgb led r g b) s = .next (answered { s with gs := m }
          (responseWord 0x04 .ok (clampCount s.cfg r + clampCount s.cfg g + clampCount s.cfg b) 0 0 0)) ∧
        LedSet m s.gs led (effective s.cfg r) (effective s.cfg g) (effective s.cfg b)) ∧
      (led ≥ 8 * chips s.cfg ∨ r > 4095 ∨ g > 4095 ∨ b > 4095 →
        exec (.setLedRgb led r g b) s = .next (raised s 0x04 .outOfRange))

/-- R114: SET_LED_APPEND. -/
def Obligations.SetLedAppendAddsToOneLed : Prop :=
  ∀ (led dr dg db : Nat) (s : State), NoReset s → Memory.wf s.gs = true →
    let sum (c d : Nat) : Nat := min 4095 (cell s.gs (cellIndex (led / 8) (led % 8) c) + d)
    encode (.setLedAppend led dr dg db) = word 0x05 0 led dr dg db ∧
      (led < 8 * chips s.cfg ∧ dr ≤ 4095 ∧ dg ≤ 4095 ∧ db ≤ 4095 → ∃ m : Memory, m.wf = true ∧
        exec (.setLedAppend led dr dg db) s = .next (answered { s with gs := m }
          (responseWord 0x05 .ok
            (clampCount s.cfg (sum 0 dr) + clampCount s.cfg (sum 1 dg) + clampCount s.cfg (sum 2 db)) 0 0 0)) ∧
        LedSet m s.gs led (effective s.cfg (sum 0 dr)) (effective s.cfg (sum 1 dg)) (effective s.cfg (sum 2 db))) ∧
      (led ≥ 8 * chips s.cfg ∨ dr > 4095 ∨ dg > 4095 ∨ db > 4095 →
        exec (.setLedAppend led dr dg db) s = .next (raised s 0x05 .outOfRange))

/-- R118: SET_CHANNEL. -/
def Obligations.SetChannelWritesOneCell : Prop :=
  ∀ (f v : Nat) (s : State), NoReset s → Memory.wf s.gs = true →
    encode (.setChannel f v) = word 0x06 0 f v 0 0 ∧
      (f < 24 * chips s.cfg ∧ v ≤ 4095 → ∃ m : Memory, m.wf = true ∧
        exec (.setChannel f v) s = .next (answered { s with gs := m }
          (responseWord 0x06 .ok (clampCount s.cfg v) 0 0 0)) ∧
        cell m f = effective s.cfg v ∧ ∀ g, g ≠ f → m.read g = Memory.read s.gs g) ∧
      (f ≥ 24 * chips s.cfg ∨ v > 4095 → exec (.setChannel f v) s = .next (raised s 0x06 .outOfRange))

/-- R120: GET_CHANNEL. -/
def Obligations.GetChannelReadsOneCell : Prop :=
  ∀ (led c : Nat) (s : State), NoReset s →
    encode (.getChannel led c) = word 0x07 (BitVec.ofNat 8 c) led 0 0 0 ∧
      (led < 8 * chips s.cfg ∧ c < 3 →
        exec (.getChannel led c) s =
          .next (answered s (responseWord 0x07 .ok 0 (Memory.read s.gs (cellIndex (led / 8) (led % 8) c)) 0 0))) ∧
      (led ≥ 8 * chips s.cfg ∨ c ≥ 3 → exec (.getChannel led c) s = .next (raised s 0x07 .outOfRange))

/-- R122: GET_LED. -/
def Obligations.GetLedReadsThreeCells : Prop :=
  ∀ (chip l : Nat) (s : State), NoReset s →
    encode (.getLed chip l) = word 0x08 (BitVec.ofNat 8 l) chip 0 0 0 ∧
      (chip < chips s.cfg ∧ l < 8 →
        exec (.getLed chip l) s =
          .next (answered s (responseWord 0x08 .ok 0 (Memory.read s.gs (cellIndex chip l 0)) (Memory.read s.gs (cellIndex chip l 1))
            (Memory.read s.gs (cellIndex chip l 2))))) ∧
      (chip ≥ chips s.cfg ∨ l ≥ 8 → exec (.getLed chip l) s = .next (raised s 0x08 .outOfRange))

/-- R130: SET_CHANNEL f, v and then GET_CHANNEL f div 3, f mod 3 answers `v`, or `min(v, MAX_ALLOWED)` with limiting on. -/
def Obligations.SetChannelThenGetChannel : Prop :=
  ∀ (f v : Nat) (s : State), NoReset s → Memory.wf s.gs = true → f < 24 * chips s.cfg → v ≤ 4095 →
    ∃ t u : State, exec (.setChannel f v) s = .next t ∧ exec (.getChannel (f / 3) (f % 3)) t = .next u ∧
      ∃ d : Gray, d.toNat = effective s.cfg v ∧ u.rspPort = some (responseWord 0x07 .ok 0 d 0 0)

/-- R124: SET_PIN_ORDER. -/
def Obligations.SetPinOrderWritesOneLed : Prop :=
  ∀ (led p0 p1 p2 : Nat) (s : State), NoReset s → tableWf (initialPinOrder s.cfg) s.po = true →
    p0 < 4 → p1 < 4 → p2 < 4 →
    encode (.setPinOrder led p0 p1 p2) = word 0x0A (BitVec.ofNat 8 (p0 + 4 * p1 + 16 * p2)) led 0 0 0 ∧
      (led < 8 * chips s.cfg ∧ [p0, p1, p2].Perm [0, 1, 2] → ∃ po o,
        exec (.setPinOrder led p0 p1 p2) s = .next (answered { s with po := po } (responseWord 0x0A .ok 0 0 0 0)) ∧
        (o.slot .red).val = p0 ∧ (o.slot .green).val = p1 ∧ (o.slot .blue).val = p2 ∧
        tableWf (initialPinOrder s.cfg) po = true ∧ pinOrderOf s.cfg po led = o ∧
        ∀ q, q ≠ led → pinOrderOf s.cfg po q = pinOrderOf s.cfg s.po q) ∧
      (led ≥ 8 * chips s.cfg ∨ ¬ [p0, p1, p2].Perm [0, 1, 2] →
        exec (.setPinOrder led p0 p1 p2) s = .next (raised s 0x0A .outOfRange))

/-- R126: SET_PIN_ORDER_ALL. -/
def Obligations.SetPinOrderAllWritesEveryLed : Prop :=
  ∀ (p0 p1 p2 : Nat) (s : State), NoReset s → tableWf (initialPinOrder s.cfg) s.po = true →
    p0 < 4 → p1 < 4 → p2 < 4 →
    encode (.setPinOrderAll p0 p1 p2) = word 0x0B (BitVec.ofNat 8 (p0 + 4 * p1 + 16 * p2)) 0 0 0 0 ∧
      ([p0, p1, p2].Perm [0, 1, 2] → ∃ po o,
        exec (.setPinOrderAll p0 p1 p2) s = .next (answered { s with po := po } (responseWord 0x0B .ok 0 0 0 0)) ∧
        (o.slot .red).val = p0 ∧ (o.slot .green).val = p1 ∧ (o.slot .blue).val = p2 ∧
        tableWf (initialPinOrder s.cfg) po = true ∧ (∀ led < 8 * chips s.cfg, pinOrderOf s.cfg po led = o) ∧
        ∀ q ≥ 8 * chips s.cfg, pinOrderOf s.cfg po q = pinOrderOf s.cfg s.po q) ∧
      (¬ [p0, p1, p2].Perm [0, 1, 2] → exec (.setPinOrderAll p0 p1 p2) s = .next (raised s 0x0B .outOfRange))

/-- R128: no setter or getter reads `PO`: with another table the same command does the same and answers the same. -/
def Obligations.SettersAndGettersIgnorePinOrder : Prop :=
  ∀ (i : Instr) (s t : State) (po : Table PinOrder), setterOrGetter i = true → exec i s = .next t →
    exec i { s with po := po } = .next { t with po := po }

/-- R134, 10_state.md R38: a command of 40_store.md changes neither `pendingRow` nor the phase, the accumulator or the latch lines, and
emits no byte, pulses no latch and records no phase change. -/
def Obligations.StoreCommandsLeaveTheSequencerAlone : Prop :=
  ∀ (i : Instr) (s : State), storeFamily i = true → NoReset s → ∃ t w, exec i s = .next t ∧
    t.pendingRow = s.pendingRow ∧ t.phase = s.phase ∧ t.accum = s.accum ∧ t.cursor = s.cursor ∧ t.latch = s.latch ∧
    t.replies = s.replies ∧ t.attempts = s.attempts ∧ t.log = s.log ++ [.resp w]

/-! ### Errors (60_exceptions.md) -/

/-- R201, R208: a command whose operands are out of range answers OUT_OF_RANGE and changes nothing else; in a build without the latch
controller LATCH is illegal before any operand is checked (R207), so it is not claimed there. -/
def Obligations.OutOfRangeChangesNothing : Prop :=
  ∀ (i : Instr) (s : State), NoReset s → (needsLatchCtrl i = true → s.cfg.hasLatchCtrl = true) →
    outOfRange (chips s.cfg) (rows s.cfg) i → exec i s = .next (raised s i.opcode.code .outOfRange)

/-- R201, "by exactly these checks": a command that answers OUT_OF_RANGE fails one of them. -/
def Obligations.OutOfRangeOnlyByTheseChecks : Prop :=
  ∀ (i : Instr) (s t : State), NoReset s → exec i s = .next t →
    t.rspPort = some (responseWord i.opcode.code .outOfRange 0 0 0 0) → s.rspPort = none →
    outOfRange (chips s.cfg) (rows s.cfg) i

/-- 43_latch.md R190, R85 case 3: in a build without the latch controller LATCH and UPDATE answer ILLEGAL_COMMAND and change nothing
else. -/
def Obligations.NoLatchControllerRefusesLatchAndUpdate : Prop :=
  ∀ (i : Instr) (s : State), NoReset s → s.cfg.hasLatchCtrl = false → needsLatchCtrl i = true →
    exec i s = .next (raised s i.opcode.code .illegalCommand)

/-! ### The current limiter (41_current_limiter.md) -/

/-- R142: the limit pass clamps each candidate on its own to `MAX_ALLOWED` and counts those strictly above it; with limiting off it is
the identity and counts none. -/
def Obligations.LimitPassClampsAndCounts : Prop :=
  ∀ (c : Config) (cand : List (Nat × Gray)),
    (limitPass c cand).1.map Prod.fst = cand.map Prod.fst ∧
      (limitPass c cand).1.map (fun e => e.2.toNat) = cand.map (fun e => effective c e.2.toNat) ∧
      (limitPass c cand).2 = (cand.map fun e => clampCount c e.2.toNat).sum

/-- R146: ENFORCE_MAX_CURRENT. In a state of the invariant it changes no cell and answers COUNT 0. -/
def Obligations.EnforceClampsEveryCell : Prop :=
  ∀ s : State, NoReset s → Memory.wf s.gs = true →
    encode .enforceMaxCurrent = word 0x09 0 0 0 0 0 ∧
      ∃ m : Memory, m.wf = true ∧
        exec .enforceMaxCurrent s = .next (answered { s with gs := m }
          (responseWord 0x09 .ok
            ((List.range (24 * chips s.cfg)).map fun f => clampCount s.cfg (cell s.gs f)).sum 0 0 0)) ∧
        (∀ f < 24 * chips s.cfg, cell m f = effective s.cfg (cell s.gs f)) ∧
        (∀ f ≥ 24 * chips s.cfg, m.read f = Memory.read s.gs f) ∧
        (s.Inv → exec .enforceMaxCurrent s = .next (answered s (responseWord 0x09 .ok 0 0 0 0)))

/-- R148: after reset, and after every step from a state where it holds, every cell is at or below `MAX_ALLOWED` when limiting is on. -/
def Obligations.StepKeepsCellsWithinLimit : Prop :=
  (∀ c, withinLimit (State.resetWith c) = true) ∧
    ∀ s t : State, withinLimit s = true → step s = .next t →
      withinLimit t = true ∧ (t.cfg.limitEn = true → ∀ f, cell t.gs f ≤ t.cfg.maxAllowed.toNat)

/-! ### The packer (42_bit_packer.md) -/

/-- R161: a push emits one byte from the empty accumulator and leaves 4 bits, and two bytes from 4 held bits and leaves none, oldest bit
first. -/
def Obligations.PushEmitsTheOldestBits : Prop :=
  (∀ (v : Gray) (s : State) (rs : List Reply), NoReset s → s.accum = ⟨0, 0⟩ → s.replies = .answer .ok :: rs →
    push v s = .ok { s with
      accum := ⟨(v.extractLsb' 0 4).setWidth 19, 4⟩
      replies := rs
      attempts := s.attempts + 1
      log := s.log ++ [.byte (v.extractLsb' 4 8) .ok] }) ∧
    ∀ (v : Gray) (held : BitVec 4) (s : State) (rs : List Reply), NoReset s → s.accum = ⟨held.setWidth 19, 4⟩ →
      s.replies = .answer .ok :: .answer .ok :: rs →
      push v s = .ok { s with
        accum := ⟨0, 0⟩
        replies := rs
        attempts := s.attempts + 2
        log := s.log ++ [.byte (held ++ v.extractLsb' 8 4) .ok, .byte (v.extractLsb' 0 8) .ok] }

/-- R165: a flush emits the held bits in the high positions with zeros after them and empties the accumulator, and does nothing when no
bit is held. -/
def Obligations.FlushPadsAfterTheData : Prop :=
  (∀ s : State, s.accum.cnt = 0 → flush s = .ok s) ∧
    ∀ (n : Nat) (held : BitVec n) (s : State) (rs : List Reply), 0 < n → n < 8 → NoReset s →
      s.accum = ⟨held.setWidth 19, n⟩ → s.replies = .answer .ok :: rs →
      flush s = .ok { s with
        accum := ⟨0, 0⟩
        replies := rs
        attempts := s.attempts + 1
        log := s.log ++ [.byte ((held ++ 0#(8 - n)).setWidth 8) .ok] }

/-- R164, R168, R170: when the transport accepts every byte, SHIFT_ROW emits exactly `RowBytes(r)`, sets `pendingRow` and answers OK;
nothing else changes. The replies and their count are the model's inputs (log entry 4) and the record is the model's (log entry 10). -/
def Obligations.ShiftRowEmitsRowBytes : Prop :=
  ∀ (r : Nat) (s : State) (rs : List Reply), NoReset s → r < rows s.cfg → s.replies = oks (rowLen s) ++ rs →
    encode (.shiftRow r) = word 0x0C 0 r 0 0 0 ∧ (bytesOf s r).length = rowLen s ∧
    let w := responseWord 0x0C .ok 0 0 0 0
    exec (.shiftRow r) s = .next { s with
      phase := .idle
      accum := ⟨0, 0⟩
      cursor := none
      pendingRow := some r
      rspPort := some w
      replies := rs
      attempts := s.attempts + rowLen s
      log := s.log ++ ([.phase s.phase .shifting r] ++ bytesOk (bytesOf s r) ++ [.phase .shifting .idle r, .resp w]) }

/-- R167, 60_exceptions.md R209: when the transport refuses byte `k` of the row, SHIFT_ROW has emitted the bytes before it, emits none
after it, leaves no pending row and an empty accumulator, and answers TRANSPORT_ERROR; the store and the pin orders are unchanged. The
replies, their count and the record are the model's (log entries 4 and 10). -/
def Obligations.ShiftRowStopsAtTheFailedByte : Prop :=
  ∀ (r k : Nat) (s : State) (rs : List Reply), NoReset s → r < rows s.cfg → k < rowLen s →
    s.replies = oks k ++ .answer .fail :: rs →
    let w := responseWord 0x0C .transportError 0 0 0 0
    exec (.shiftRow r) s = .next { s with
      phase := .idle
      accum := ⟨0, 0⟩
      cursor := none
      pendingRow := none
      rspPort := some w
      replies := rs
      attempts := s.attempts + k + 1
      log := s.log ++ ([.phase s.phase .shifting r] ++ bytesOk ((bytesOf s r).take k) ++
        [.byte ((bytesOf s r).getD k 0) .fail, .phase .shifting .idle r, .resp w]) }

/-- R205: the answers may be any: with no reset coming and none of the listed replies `never`, SHIFT_ROW of a legal row ends with OK and
the row pending, or with TRANSPORT_ERROR and no row pending, and keeps the store and the pin orders. -/
def Obligations.ShiftRowEndsUnderAnyAnswers : Prop :=
  ∀ (r : Nat) (s : State), NoReset s → r < rows s.cfg → .never ∉ s.replies →
    ∃ t, exec (.shiftRow r) s = .next t ∧ t.gs = s.gs ∧ t.po = s.po ∧ t.cfg = s.cfg ∧ t.phase = .idle ∧
      ((t.rspPort = some (responseWord 0x0C .ok 0 0 0 0) ∧ t.pendingRow = some r) ∨
        (t.rspPort = some (responseWord 0x0C .transportError 0 0 0 0) ∧ t.pendingRow = none))

/-! ### The latch controller (43_latch.md) -/

/-- R188, 60_exceptions.md R203: LATCH of the pending row pulses its line once, and the row is pending no more; LATCH of any other row of
the chain answers NOT_READY, of a row outside it OUT_OF_RANGE, of any row in a build without the controller ILLEGAL_COMMAND, and these
change nothing else. -/
def Obligations.LatchPulsesOnlyThePendingRow : Prop :=
  ∀ (r : Nat) (s : State), NoReset s →
    encode (.latch r) = word 0x0D 0 r 0 0 0 ∧
      (s.cfg.hasLatchCtrl = true → r < rows s.cfg → s.pendingRow = some r → s.latch = [] →
        let w := responseWord 0x0D .ok 0 0 0 0
        exec (.latch r) s = .next { s with
          phase := .idle
          pendingRow := none
          rspPort := some w
          log := s.log ++
            [.phase s.phase .latching r, .line r true, .line r false, .latchPulse r, .phase .latching .idle r, .resp w] }) ∧
      (s.cfg.hasLatchCtrl = true → r < rows s.cfg → s.pendingRow ≠ some r →
        exec (.latch r) s = .next (raised s 0x0D .notReady)) ∧
      (s.cfg.hasLatchCtrl = true → r ≥ rows s.cfg → exec (.latch r) s = .next (raised s 0x0D .outOfRange)) ∧
      (s.cfg.hasLatchCtrl = false → exec (.latch r) s = .next (raised s 0x0D .illegalCommand))

/-- R186, R184: when the transport accepts every byte, UPDATE shifts and latches every row in `RowSeq` order, each before the next, and
answers OK with no row pending; nothing else changes. The replies, their count and the record are the model's (log entries 4 and 10). -/
def Obligations.UpdateShiftsAndLatchesEveryRow : Prop :=
  ∀ (s : State) (rs : List Reply), NoReset s → s.cfg.hasLatchCtrl = true → 0 < rows s.cfg → s.phase = .idle → s.latch = [] →
    s.replies = oks (rows s.cfg * rowLen s) ++ rs →
    encode .update = word 0x0E 0 0 0 0 0 ∧
    let w := responseWord 0x0E .ok 0 0 0 0
    exec .update s = .next { s with
      accum := ⟨0, 0⟩
      cursor := none
      pendingRow := none
      rspPort := some w
      replies := rs
      attempts := s.attempts + rows s.cfg * rowLen s
      log := s.log ++ (rowSeq s.cfg).flatMap (rowEvents s) ++ [.resp w] }

/-- R186, 60_exceptions.md R209: when the transport refuses byte `k` of a row, the rows before it stay latched, that row is not latched,
no later row is sent, and UPDATE answers TRANSPORT_ERROR with no row pending. The replies, their count and the record are the model's (log
entries 4 and 10). -/
def Obligations.UpdateStopsAtTheFailedByte : Prop :=
  ∀ (s : State) (done later : List Nat) (r k : Nat) (rs : List Reply), NoReset s → s.cfg.hasLatchCtrl = true →
    s.phase = .idle → s.latch = [] → rowSeq s.cfg = done ++ r :: later → k < rowLen s →
    s.replies = oks (done.length * rowLen s + k) ++ .answer .fail :: rs →
    let w := responseWord 0x0E .transportError 0 0 0 0
    exec .update s = .next { s with
      accum := ⟨0, 0⟩
      cursor := none
      pendingRow := none
      rspPort := some w
      replies := rs
      attempts := s.attempts + done.length * rowLen s + k + 1
      log := s.log ++ done.flatMap (rowEvents s) ++
        ([.phase .idle .shifting r] ++ bytesOk ((bytesOf s r).take k) ++
          [.byte ((bytesOf s r).getD k 0) .fail, .phase .shifting .idle r, .resp w]) }

/-- R194: the observable trace of a successful UPDATE. -/
def Obligations.UpdateTrace : Prop :=
  ∀ (s t : State) (rs : List Reply), NoReset s → s.cfg.hasLatchCtrl = true → 0 < rows s.cfg → s.phase = .idle →
    s.latch = [] → s.replies = oks (rows s.cfg * rowLen s) ++ rs → exec .update s = .next t →
    t.trace = s.trace ++ ((rowSeq s.cfg).flatMap fun r => bytesOk (bytesOf s r) ++ [.latchPulse r]) ++
      [.resp (responseWord 0x0E .ok 0 0 0 0)]

/-- R186 corner case: with `L = 1`, UPDATE gives the bytes and the pulse of SHIFT_ROW 0 followed by LATCH 0, and ends with the same store,
pin orders, pending row and phase. -/
def Obligations.UpdateOfOneRowIsShiftThenLatch : Prop :=
  ∀ (s : State) (rs : List Reply), NoReset s → s.cfg.hasLatchCtrl = true → rows s.cfg = 1 → s.phase = .idle → s.latch = [] →
    s.replies = oks (rowLen s) ++ rs →
    ∃ t u v : State, exec .update s = .next t ∧ exec (.shiftRow 0) s = .next u ∧ exec (.latch 0) u = .next v ∧
      (t.gs, t.po, t.pendingRow, t.phase, t.replies, t.attempts) = (v.gs, v.po, v.pendingRow, v.phase, v.replies, v.attempts) ∧
      ∃ wt wu wv, t.trace = s.trace ++ bytesOk (bytesOf s 0) ++ [.latchPulse 0, .resp wt] ∧
        v.trace = s.trace ++ bytesOk (bytesOf s 0) ++ [.resp wu, .latchPulse 0, .resp wv]

/-- R192, R180, R182, R184: the order of outputs is kept by every step. A latch pulse of row `r` is recorded only after a shift of row `r`
whose every byte was accepted and before any later byte; the phases change by R180's edges only; one line at most is at 1, and none
while a byte is in flight. A step that reset cuts short keeps it too: what it recorded before the assertion goes on from the record
before the step. -/
def Obligations.StepKeepsTheOrderOfOutputs : Prop :=
  ∀ s t : State, s.OrderKept → step s = .next t → t.OrderKept ∧ ∃ es, t.log = s.log ++ es ∧
    (monitorFrom (chipsPerRow s.cfg) (monitorFrom (chipsPerRow s.cfg) (some Monitor.start) s.log) (beforeReset es)).isSome = true

/-! ### The ports, reset and the whole machine -/

/-- A ready block's step takes the oldest offered word and, when it decodes, is `exec` of it on the state without that word, one moment
nearer to a reset that is coming (20_memory.md R72, 60_exceptions.md R206; the countdown is the model's, log entry 8). -/
def Obligations.StepRunsTheDecodedCommand : Prop :=
  ∀ (s : State) (w : Word) (rest : List Word) (i : Instr), Ready s → s.offered = w :: rest → decode w = .ok i →
    step s = exec i { s with offered := rest, resetAfter := s.resetAfter.map fun k => k - 1 }

/-- 60_exceptions.md R206: a word is taken only by an idle block whose last response is taken; offered words are never dropped, and are
taken oldest first. 70_reset_and_hazards.md R230: none is taken while reset is asserted. That offered words outlive reset is deduced (log
entry 9). -/
def Obligations.OfferedWordsAreHeldInOrder : Prop :=
  ∀ s t : State, step s = .next t →
    (t.offered = s.offered ∨ ∃ w, s.offered = w :: t.offered) ∧
      (s.phase ≠ .idle ∨ s.rspPort ≠ none ∨ s.inReset = true → t.offered = s.offered)

/-- 60_exceptions.md R206, 93_implementation_defined.md row 16: a response stands on the port until the host takes it, which changes
nothing else; a host that never takes it leaves the block with no next step (a named fault, the model's choice, log
entries 5 and 7). -/
def Obligations.ResponseWaitsForTheHost : Prop :=
  ∀ (s : State) (w : Word), s.inReset = false → NoReset s → s.phase = .idle → s.rspPort = some w →
    (s.hostReady = true → step s = .next { s with rspPort := none }) ∧
      (s.hostReady = false → step s = .fault .responseNotTaken)

/-- 70_reset_and_hazards.md R245: when the transport never answers byte `k` of a row of SHIFT_ROW or of UPDATE, the block has emitted the
bytes before it (and in UPDATE latched the rows before it), is left in SHIFTING with no response, and has no next step. That the wait shows as a named fault of the step after is the model's choice
(log entries 6 and 7). -/
def Obligations.UnansweredByteHangs : Prop :=
  (∀ (r k : Nat) (s : State) (rs : List Reply), NoReset s → s.inReset = false → r < rows s.cfg → k < rowLen s →
    s.replies = oks k ++ .never :: rs →
    ∃ t, exec (.shiftRow r) s = .next t ∧ t.phase = .shifting ∧ t.rspPort = s.rspPort ∧ t.pendingRow = none ∧
      t.gs = s.gs ∧ t.po = s.po ∧ t.trace = s.trace ++ bytesOk ((bytesOf s r).take k) ∧
      step t = .fault .transportNeverAnswers) ∧
    ∀ (s : State) (done later : List Nat) (r k : Nat) (rs : List Reply), NoReset s → s.inReset = false →
      s.cfg.hasLatchCtrl = true → rowSeq s.cfg = done ++ r :: later → k < rowLen s →
      s.replies = oks (done.length * rowLen s + k) ++ .never :: rs →
      ∃ t, exec .update s = .next t ∧ t.phase = .shifting ∧ t.rspPort = s.rspPort ∧ t.pendingRow = none ∧
        t.gs = s.gs ∧ t.po = s.po ∧
        t.trace = s.trace ++ done.flatMap (rowTrace s) ++ bytesOk ((bytesOf s r).take k) ∧
        step t = .fault .transportNeverAnswers

/-- 70_reset_and_hazards.md R232: reset asserted as a command runs aborts it before any output: no byte, no pulse, no response, and every
latch line low. The countdown to the assertion is the model's (log entry 8). -/
def Obligations.ResetAbortsAnyCommand : Prop :=
  ∀ (i : Instr) (s : State), s.resetAfter = some 0 →
    ∃ t, exec i s = .next t ∧ t.inReset = true ∧ t.latch = [] ∧ t.trace = s.trace ∧ t.rspPort = s.rspPort ∧
      .resetAsserted ∈ t.log.getLast?

/-- 70_reset_and_hazards.md R232: reset asserted after `k` bytes of a row aborts SHIFT_ROW there: exactly those bytes were emitted, no
response is given and every latch line is low. UPDATE is aborted in the same way after whole rows and `k` moments of the next one (its
bytes, then the rise of its line, so that its pulse is not completed), or after all of its rows and before its response. The countdown is
the model's (log entry 8): each byte answered is one moment of it and each pulse two. -/
def Obligations.ResetAfterSomeBytesCutsTheRow : Prop :=
  (∀ (r k : Nat) (s : State) (rs : List Reply), s.resetAfter = some k → k ≤ rowLen s → r < rows s.cfg →
    s.replies = oks k ++ rs →
    ∃ t, exec (.shiftRow r) s = .next t ∧ t.inReset = true ∧ t.latch = [] ∧ t.rspPort = s.rspPort ∧
      t.trace = s.trace ++ bytesOk ((bytesOf s r).take k)) ∧
    (∀ (s : State) (done later : List Nat) (r k : Nat) (rs : List Reply), s.cfg.hasLatchCtrl = true →
      rowSeq s.cfg = done ++ r :: later → k ≤ rowLen s + 1 →
      s.resetAfter = some (done.length * (rowLen s + 2) + k) →
      s.replies = oks (done.length * rowLen s + min k (rowLen s)) ++ rs →
      ∃ t, exec .update s = .next t ∧ t.inReset = true ∧ t.latch = [] ∧ t.rspPort = s.rspPort ∧
        t.trace = s.trace ++ done.flatMap (rowTrace s) ++ bytesOk ((bytesOf s r).take k)) ∧
    ∀ (s : State) (rs : List Reply), s.cfg.hasLatchCtrl = true →
      s.resetAfter = some (rows s.cfg * (rowLen s + 2)) → s.replies = oks (rows s.cfg * rowLen s) ++ rs →
      ∃ t, exec .update s = .next t ∧ t.inReset = true ∧ t.latch = [] ∧ t.rspPort = s.rspPort ∧
        t.trace = s.trace ++ (rowSeq s.cfg).flatMap (rowTrace s)

/-- 70_reset_and_hazards.md R232: reset asserted while a latch line is high drives it low and the pulse is not completed: no `LatchPulse`
and no response. The countdown is the model's (log entry 8). -/
def Obligations.ResetInsidePulseCutsItShort : Prop :=
  ∀ (r : Nat) (s : State), s.resetAfter = some 1 → s.cfg.hasLatchCtrl = true → r < rows s.cfg → s.pendingRow = some r →
    s.latch = [] →
    ∃ t, exec (.latch r) s = .next t ∧ t.inReset = true ∧ t.latch = [] ∧ t.rspPort = s.rspPort ∧
      t.log = s.log ++ [.phase s.phase .latching r, .line r true, .line r false, .resetAsserted]

/-- 10_state.md R45, 70_reset_and_hazards.md R230: asserting reset emits nothing, pulses nothing and drives every latch line low; a
release with legal configuration inputs gives the reset state of that configuration and adds nothing to the record; a release with an
illegal configuration is refused. -/
def Obligations.ReleaseGivesTheResetState : Prop :=
  ∀ s : State, s.assertReset.trace = s.trace ∧ s.assertReset.latch = [] ∧
    (s.inReset = true → legalConfig s.cfgInputs = true → ∃ t, step s = .next t ∧ t.cfg = s.cfgInputs ∧
      (∀ f, Memory.read t.gs f = 0) ∧
      (∀ led, some (pinOrderOf t.cfg t.po led) = PinOrder.ofCode? s.cfgInputs.pinOrderInit) ∧ t.phase = .idle ∧
      t.accum = ⟨0, 0⟩ ∧ t.cursor = none ∧ t.pendingRow = none ∧ t.latch = [] ∧ t.inReset = false ∧ t.log = s.log) ∧
    (s.inReset = true → legalConfig s.cfgInputs = false → step s = .refused .illegalConfiguration)

/-- 70_reset_and_hazards.md R230 item 3: after a release the block can take its first command. That the response port is empty then is
deduced (log entry 9). -/
def Obligations.ReleaseLeavesTheBlockReady : Prop :=
  ∀ s t : State, s.inReset = true → step s = .next t → Ready t ∧ t.offered = s.offered

/-- 10_state.md R35: the legal configurations. -/
def Obligations.LegalConfigurations : Prop :=
  ∀ c : Config, legalConfig c = true ↔
    c.numLatches.toNat ≥ 1 ∧ c.numTlcOneRow.toNat ≥ 1 ∧
      24 * (c.numLatches.toNat * c.numTlcOneRow.toNat) ≤ 2 ^ 32 - 1 ∧
      c.pinOrderInit ∈ [0x24#6, 0x18#6, 0x21#6, 0x09#6, 0x12#6, 0x06#6] ∧ c.serialClkHz.toNat > 0 ∧ c.latchPulseMin.toNat > 0

/-- 10_state.md R36: the configuration is sampled when reset is released, and no other step changes it. -/
def Obligations.ConfigurationIsConstant : Prop :=
  ∀ s t : State, step s = .next t → t.cfg = if s.inReset then s.cfgInputs else s.cfg

/-- Every step keeps the invariant: a legal configuration, canonical tables within the chain, cells within the limit, a pending row of the
chain, a resting or waiting sequencer, and low latch lines. -/
def Obligations.StepKeepsTheInvariant : Prop :=
  ∀ s t : State, s.Inv → step s = .next t → t.Inv

/-- The reset state of every legal configuration meets the invariant and the order of outputs. -/
def Obligations.ResetMeetsTheInvariants : Prop :=
  ∀ c : Config, legalConfig c = true → (State.resetWith c).Inv ∧ (State.resetWith c).OrderKept

/-- 42_bit_packer.md R160: what stands at each position of `RowSeq`, `RowChips(r)` and `LedSeq`: ascending under ASC, the reverse under
DESC. -/
def Obligations.TraversalFollowsTheOrderParameters : Prop :=
  ∀ (c : Config) (r : Nat),
    (rowSeq c).length = c.numLatches.toNat ∧
      (∀ i < c.numLatches.toNat, (rowSeq c)[i]? = some (place c.rowOrder c.numLatches.toNat i)) ∧
      (rowChips c r).length = c.numTlcOneRow.toNat ∧
      (∀ i < c.numTlcOneRow.toNat,
        (rowChips c r)[i]? = some (r * c.numTlcOneRow.toNat + place c.chipOrder c.numTlcOneRow.toNat i)) ∧
      ledSeq c =
        match c.ledOrder with
        | .asc => [0, 1, 2, 3, 4, 5, 6, 7]
        | .desc => [7, 6, 5, 4, 3, 2, 1, 0]
end

