-- ==== Sys2Proof/Laws/Encode.lean ====
section
/-! SUPPORT. The fields of an assembled word read back (30_encoding.md R80, R91), and the opcode map read both ways (R83). -/

namespace Sys2Proof

/-- A field above the low part of an append is a field of the high part. -/
theorem field_above {m n s k : Nat} {a : BitVec m} {b : BitVec n} {c : BitVec k} (h : n ≤ s)
    (hc : a.extractLsb' (s - n) k = c) : (a ++ b).extractLsb' s k = c :=
  (BitVec.extractLsb'_append_eq_of_le h).trans hc

/-- The low part of an append is its lowest field. -/
theorem field_low {m n : Nat} {a : BitVec m} {b : BitVec n} : (a ++ b).extractLsb' 0 n = b :=
  (BitVec.extractLsb'_append_eq_of_add_le (by omega)).trans BitVec.extractLsb'_eq_self

section
variable (op aux : BitVec 8) (idx : BitVec 32) (va vb vc : BitVec 16)

@[simp] theorem opField_assembleWord : opField (assembleWord op aux idx va vb vc) = op :=
  field_above (by decide) (field_above (by decide) (field_above (by decide) (field_above (by decide) (field_above (by decide) (field_above (by decide) (field_above (by decide) BitVec.extractLsb'_eq_self))))))

@[simp] theorem auxField_assembleWord : auxField (assembleWord op aux idx va vb vc) = aux :=
  field_above (by decide) (field_above (by decide) (field_above (by decide) (field_above (by decide) (field_above (by decide) (field_above (by decide) field_low)))))

@[simp] theorem idxField_assembleWord : idxField (assembleWord op aux idx va vb vc) = idx :=
  field_above (by decide) (field_above (by decide) (field_above (by decide) (field_above (by decide) field_low)))

@[simp] theorem vaField_assembleWord : vaField (assembleWord op aux idx va vb vc) = va :=
  field_above (by decide) (field_above (by decide) (field_above (by decide) field_low))

@[simp] theorem vbField_assembleWord : vbField (assembleWord op aux idx va vb vc) = vb :=
  field_above (by decide) (field_above (by decide) field_low)

@[simp] theorem vcField_assembleWord : vcField (assembleWord op aux idx va vb vc) = vc :=
  field_above (by decide) field_low

end

/-- The low six bits of AUX, as a pin-order command assembles them. -/
@[simp] theorem code_of_aux (code : BitVec 6) : (0#2 ++ code).extractLsb' 0 6 = code  :=
  field_low

/-- The slots packed into a code read back (R86). -/
theorem codeSlots_slotsCode {p0 p1 p2 : Nat} (h0 : p0 < 4) (h1 : p1 < 4) (h2 : p2 < 4) :
    codeSlots (slotsCode p0 p1 p2) = (p0, p1, p2) := by
  interval_cases p0 <;> interval_cases p1 <;> interval_cases p2 <;> rfl

/-- The opcode map read back: an `OP` field names an opcode exactly when it is that opcode's code (R83). -/
theorem Opcode.ofField?_eq_some {b : BitVec 8} {o : Opcode} : Opcode.ofField? b = some o ↔ b = o.code := by
  constructor
  · intro h
    have := List.find?_some h
    exact (eq_of_beq this).symm
  · rintro rfl
    cases o <;> rfl

end Sys2Proof
end

