-- ==== Sys2Proof/Laws/Memory.lean ====
section
/-! SUPPORT. The laws of the sparse tables: every write keeps the canonical form, a read after a write gives the value written, other
indices read as before, and tables in canonical form that read alike are equal. -/

namespace Sys2Proof.Machine

variable {α : Type} [DecidableEq α] {d : α}

/-! ### The canonical form, unfolded once -/

@[simp] theorem tableWf_nil : tableWf d [] = true := rfl

theorem tableWf_cons {k : Nat} {v : α} {t : Table α} :
    tableWf d ((k, v) :: t) = true ↔ v ≠ d ∧ (∀ e ∈ t, k < e.1) ∧ tableWf d t = true := by
  simp [tableWf, and_assoc]

omit [DecidableEq α] in
theorem tableRead_eq_default {t : Table α} {a : Nat} (h : ∀ e ∈ t, e.1 ≠ a) : tableRead d t a = d := by
  induction t with
  | nil => rfl
  | cons e t ih =>
    have he := h e (by simp)
    simp only [tableRead]
    rw [if_neg (fun hc => he hc.symm)]
    exact ih fun x hx => h x (by simp [hx])

/-! ### Reads after writes -/

theorem tableRead_write {t : Table α} (hwf : tableWf d t = true) (a b : Nat) (v : α) :
    tableRead d (tableWrite d t a v) b = if b = a then v else tableRead d t b := by
  induction t with
  | nil =>
    by_cases hv : v = d <;> simp [tableWrite, tableRead, hv]
  | cons e t ih =>
    obtain ⟨k, x⟩ := e
    obtain ⟨hx, hk, ht⟩ := tableWf_cons.mp hwf
    have hmiss : ∀ c, c ≤ k → tableRead d t c = d := fun c hc =>
      tableRead_eq_default fun e he => by have := hk e he; omega
    simp only [tableWrite]
    by_cases hak : a < k
    · rw [if_pos hak]
      by_cases hv : v = d
      · rw [if_pos hv]
        by_cases hba : b = a
        · subst hba
          simp [tableRead, show b ≠ k by omega, hmiss b (by omega), hv]
        · simp [hba]
      · rw [if_neg hv]
        by_cases hba : b = a <;> simp [tableRead, hba]
    · rw [if_neg hak]
      by_cases hek : a = k
      · rw [if_pos hek]
        by_cases hv : v = d
        · rw [if_pos hv]
          by_cases hba : b = a
          · simp [hba, hek, hmiss k (by omega), hv]
          · simp [tableRead, hba, show b ≠ k by omega]
        · rw [if_neg hv]
          by_cases hba : b = a
          · simp [tableRead, hba]
          · simp [tableRead, hba, show b ≠ k by omega]
      · rw [if_neg hek]
        by_cases hbk : b = k
        · simp [tableRead, hbk, show k ≠ a by omega]
        · simp [tableRead, hbk, ih ht]

/-! ### Writes keep the canonical form -/

theorem tableWrite_keys {t : Table α} {a : Nat} {v : α} {e : Nat × α} (h : e ∈ tableWrite d t a v) :
    e.1 = a ∧ e.2 = v ∨ e ∈ t := by
  induction t with
  | nil =>
    by_cases hv : v = d
    · simp [tableWrite, hv] at h
    · simp only [tableWrite, if_neg hv, List.mem_singleton] at h
      simp [h]
  | cons x t ih =>
    obtain ⟨k, y⟩ := x
    simp only [tableWrite] at h
    split at h
    · split at h
      · exact .inr h
      · rcases List.mem_cons.mp h with rfl | h
        · simp
        · exact .inr h
    · split at h
      · split at h
        · exact .inr (List.mem_cons_of_mem _ h)
        · rcases List.mem_cons.mp h with rfl | h
          · simp
          · exact .inr (List.mem_cons_of_mem _ h)
      · rcases List.mem_cons.mp h with rfl | h
        · simp
        · rcases ih h with h | h
          · exact .inl h
          · exact .inr (List.mem_cons_of_mem _ h)

theorem tableWf_write {t : Table α} (hwf : tableWf d t = true) (a : Nat) (v : α) :
    tableWf d (tableWrite d t a v) = true := by
  induction t with
  | nil => by_cases hv : v = d <;> simp [tableWrite, tableWf, hv]
  | cons e t ih =>
    obtain ⟨k, x⟩ := e
    obtain ⟨hx, hk, ht⟩ := tableWf_cons.mp hwf
    simp only [tableWrite]
    split
    · split
      · exact hwf
      · refine tableWf_cons.mpr ⟨‹_›, ?_, hwf⟩
        intro e he
        rcases List.mem_cons.mp he with rfl | he
        · assumption
        · have := hk e he; omega
    · split
      · rename_i hak
        split
        · exact ht
        · exact tableWf_cons.mpr ⟨‹_›, fun e he => hak ▸ hk e he, ht⟩
      · refine tableWf_cons.mpr ⟨hx, ?_, ih ht⟩
        intro e he
        rcases tableWrite_keys he with ⟨h1, -⟩ | he
        · omega
        · exact hk e he

theorem tableBelow_write {n : Nat} {t : Table α} {a : Nat} (h : tableBelow n t = true) (ha : a < n) (v : α) :
    tableBelow n (tableWrite d t a v) = true := by
  simp only [tableBelow, List.all_eq_true, decide_eq_true_eq] at *
  intro e he
  rcases tableWrite_keys he with ⟨h1, -⟩ | he
  · omega
  · exact h e he

/-! ### Several writes -/

theorem tableWf_writeAll {t : Table α} (hwf : tableWf d t = true) (kvs : List (Nat × α)) :
    tableWf d (tableWriteAll d t kvs) = true := by
  induction kvs generalizing t with
  | nil => exact hwf
  | cons e kvs ih => exact ih (tableWf_write hwf e.1 e.2)

theorem tableBelow_writeAll {n : Nat} {t : Table α} {kvs : List (Nat × α)} (h : tableBelow n t = true)
    (hk : ∀ e ∈ kvs, e.1 < n) : tableBelow n (tableWriteAll d t kvs) = true := by
  induction kvs generalizing t with
  | nil => exact h
  | cons e kvs ih =>
    exact ih (tableBelow_write h (hk e (by simp)) e.2) fun x hx => hk x (by simp [hx])

theorem tableWriteAll_mem {t : Table α} {kvs : List (Nat × α)} {e : Nat × α} (h : e ∈ tableWriteAll d t kvs) :
    e ∈ kvs ∨ e ∈ t := by
  induction kvs generalizing t with
  | nil => exact .inr h
  | cons x kvs ih =>
    rcases ih h with h | h
    · exact .inl (List.mem_cons_of_mem _ h)
    · rcases tableWrite_keys h with ⟨h1, h2⟩ | h
      · exact .inl (by rw [show e = x from Prod.ext h1 h2]; simp)
      · exact .inr h

/-- Writing candidates with distinct indices: an index written reads its candidate, another reads as before. -/
theorem tableRead_writeAll {t : Table α} (hwf : tableWf d t = true) {kvs : List (Nat × α)}
    (hnd : (kvs.map Prod.fst).Nodup) (b : Nat) :
    tableRead d (tableWriteAll d t kvs) b = ((kvs.find? fun e => e.1 == b).map Prod.snd).getD (tableRead d t b) := by
  induction kvs generalizing t with
  | nil => rfl
  | cons e kvs ih =>
    obtain ⟨a, v⟩ := e
    simp only [List.map_cons, List.nodup_cons] at hnd
    simp only [tableWriteAll]
    rw [ih (tableWf_write hwf a v) hnd.2, tableRead_write hwf]
    by_cases hba : a = b
    · subst hba
      have : kvs.find? (fun e => e.1 == a) = none := by
        rw [List.find?_eq_none]
        intro x hx hxa
        exact hnd.1 (List.mem_map.mpr ⟨x, hx, by simpa using hxa⟩)
      simp [this]
    · rw [List.find?_cons_of_neg (by simpa using hba), if_neg (fun h => hba h.symm)]

/-! ### Canonical tables that read alike are equal -/

theorem table_ext {t u : Table α} (ht : tableWf d t = true) (hu : tableWf d u = true)
    (h : ∀ a, tableRead d t a = tableRead d u a) : t = u := by
  induction t generalizing u with
  | nil =>
    cases u with
    | nil => rfl
    | cons e u =>
      obtain ⟨k, v⟩ := e
      have := h k
      simp [tableRead] at this
      exact absurd this.symm (tableWf_cons.mp hu).1
  | cons e t ih =>
    obtain ⟨k, v⟩ := e
    obtain ⟨hv, hk, ht'⟩ := tableWf_cons.mp ht
    cases u with
    | nil =>
      have := h k
      simp [tableRead] at this
      exact absurd this hv
    | cons e' u =>
      obtain ⟨k', v'⟩ := e'
      obtain ⟨hv', hk', hu'⟩ := tableWf_cons.mp hu
      have miss : ∀ (w : Table α) (m c : Nat), (∀ e ∈ w, m < e.1) → c ≤ m → tableRead d w c = d := fun w m c hw hc =>
        tableRead_eq_default fun e he => by have := hw e he; omega
      have hkk : k = k' := by
        rcases Nat.lt_trichotomy k k' with hlt | heq | hlt
        · have := h k
          simp [tableRead, show k ≠ k' by omega, miss u k' k hk' (by omega)] at this
          exact absurd this hv
        · exact heq
        · have := h k'
          simp [tableRead, show k' ≠ k by omega, miss t k k' hk (by omega)] at this
          exact absurd this.symm hv'
      subst hkk
      have hvv : v = v' := by simpa [tableRead] using h k
      subst hvv
      refine congrArg _ (ih ht' hu' fun a => ?_)
      by_cases hak : a = k
      · rw [hak, miss t k k hk (le_refl _), miss u k k hk' (le_refl _)]
      · simpa [tableRead, hak] using h a

/-! ### The store's memory -/

theorem Memory.wf_write {m : Memory} (h : m.wf = true) (f : Nat) (v : Gray) : (m.write f v).wf = true :=
  tableWf_write h f v

theorem Memory.wf_writeAll {m : Memory} (h : m.wf = true) (cand : List (Nat × Gray)) : (m.writeAll cand).wf = true :=
  tableWf_writeAll h cand

theorem Memory.wf_reset : Memory.wf [] = true := rfl

theorem Memory.read_write {m : Memory} (h : m.wf = true) (f g : Nat) (v : Gray) :
    (m.write f v).read g = if g = f then v else m.read g :=
  tableRead_write h f g v

end Sys2Proof.Machine
end

