-- ==== Sys2Proof/Laws/State.lean ====
section
/-! SUPPORT. One lemma per field of State per named update, true by rfl, so that no proof unfolds a record update. -/

namespace Sys2Proof.Machine

variable (s : State)

/-! ### logged -/

@[simp] theorem State.logged_cfg (e : Event) : (s.logged e).cfg = s.cfg := rfl
@[simp] theorem State.logged_gs (e : Event) : (s.logged e).gs = s.gs := rfl
@[simp] theorem State.logged_po (e : Event) : (s.logged e).po = s.po := rfl
@[simp] theorem State.logged_phase (e : Event) : (s.logged e).phase = s.phase := rfl
@[simp] theorem State.logged_accum (e : Event) : (s.logged e).accum = s.accum := rfl
@[simp] theorem State.logged_cursor (e : Event) : (s.logged e).cursor = s.cursor := rfl
@[simp] theorem State.logged_pendingRow (e : Event) : (s.logged e).pendingRow = s.pendingRow := rfl
@[simp] theorem State.logged_latch (e : Event) : (s.logged e).latch = s.latch := rfl
@[simp] theorem State.logged_rspPort (e : Event) : (s.logged e).rspPort = s.rspPort := rfl
@[simp] theorem State.logged_inReset (e : Event) : (s.logged e).inReset = s.inReset := rfl
@[simp] theorem State.logged_offered (e : Event) : (s.logged e).offered = s.offered := rfl
@[simp] theorem State.logged_hostReady (e : Event) : (s.logged e).hostReady = s.hostReady := rfl
@[simp] theorem State.logged_replies (e : Event) : (s.logged e).replies = s.replies := rfl
@[simp] theorem State.logged_cfgInputs (e : Event) : (s.logged e).cfgInputs = s.cfgInputs := rfl
@[simp] theorem State.logged_resetAfter (e : Event) : (s.logged e).resetAfter = s.resetAfter := rfl
@[simp] theorem State.logged_attempts (e : Event) : (s.logged e).attempts = s.attempts := rfl
@[simp] theorem State.logged_log (e : Event) : (s.logged e).log = s.log ++ [e] := rfl

/-! ### tick -/

@[simp] theorem State.tick_cfg : (s.tick).cfg = s.cfg := rfl
@[simp] theorem State.tick_gs : (s.tick).gs = s.gs := rfl
@[simp] theorem State.tick_po : (s.tick).po = s.po := rfl
@[simp] theorem State.tick_phase : (s.tick).phase = s.phase := rfl
@[simp] theorem State.tick_accum : (s.tick).accum = s.accum := rfl
@[simp] theorem State.tick_cursor : (s.tick).cursor = s.cursor := rfl
@[simp] theorem State.tick_pendingRow : (s.tick).pendingRow = s.pendingRow := rfl
@[simp] theorem State.tick_latch : (s.tick).latch = s.latch := rfl
@[simp] theorem State.tick_rspPort : (s.tick).rspPort = s.rspPort := rfl
@[simp] theorem State.tick_inReset : (s.tick).inReset = s.inReset := rfl
@[simp] theorem State.tick_offered : (s.tick).offered = s.offered := rfl
@[simp] theorem State.tick_hostReady : (s.tick).hostReady = s.hostReady := rfl
@[simp] theorem State.tick_replies : (s.tick).replies = s.replies := rfl
@[simp] theorem State.tick_cfgInputs : (s.tick).cfgInputs = s.cfgInputs := rfl
@[simp] theorem State.tick_resetAfter : (s.tick).resetAfter = s.resetAfter.map fun k => k - 1 := rfl
@[simp] theorem State.tick_attempts : (s.tick).attempts = s.attempts := rfl
@[simp] theorem State.tick_log : (s.tick).log = s.log := rfl

/-! ### enterPhase -/

@[simp] theorem State.enterPhase_cfg (q : Phase) (r : Nat) : (s.enterPhase q r).cfg = s.cfg := rfl
@[simp] theorem State.enterPhase_gs (q : Phase) (r : Nat) : (s.enterPhase q r).gs = s.gs := rfl
@[simp] theorem State.enterPhase_po (q : Phase) (r : Nat) : (s.enterPhase q r).po = s.po := rfl
@[simp] theorem State.enterPhase_phase (q : Phase) (r : Nat) : (s.enterPhase q r).phase = q := rfl
@[simp] theorem State.enterPhase_accum (q : Phase) (r : Nat) : (s.enterPhase q r).accum = s.accum := rfl
@[simp] theorem State.enterPhase_cursor (q : Phase) (r : Nat) : (s.enterPhase q r).cursor = s.cursor := rfl
@[simp] theorem State.enterPhase_pendingRow (q : Phase) (r : Nat) : (s.enterPhase q r).pendingRow = s.pendingRow := rfl
@[simp] theorem State.enterPhase_latch (q : Phase) (r : Nat) : (s.enterPhase q r).latch = s.latch := rfl
@[simp] theorem State.enterPhase_rspPort (q : Phase) (r : Nat) : (s.enterPhase q r).rspPort = s.rspPort := rfl
@[simp] theorem State.enterPhase_inReset (q : Phase) (r : Nat) : (s.enterPhase q r).inReset = s.inReset := rfl
@[simp] theorem State.enterPhase_offered (q : Phase) (r : Nat) : (s.enterPhase q r).offered = s.offered := rfl
@[simp] theorem State.enterPhase_hostReady (q : Phase) (r : Nat) : (s.enterPhase q r).hostReady = s.hostReady := rfl
@[simp] theorem State.enterPhase_replies (q : Phase) (r : Nat) : (s.enterPhase q r).replies = s.replies := rfl
@[simp] theorem State.enterPhase_cfgInputs (q : Phase) (r : Nat) : (s.enterPhase q r).cfgInputs = s.cfgInputs := rfl
@[simp] theorem State.enterPhase_resetAfter (q : Phase) (r : Nat) : (s.enterPhase q r).resetAfter = s.resetAfter := rfl
@[simp] theorem State.enterPhase_attempts (q : Phase) (r : Nat) : (s.enterPhase q r).attempts = s.attempts := rfl
@[simp] theorem State.enterPhase_log (q : Phase) (r : Nat) : (s.enterPhase q r).log = s.log ++ [.phase s.phase q r] := rfl

/-! ### driveLine -/

@[simp] theorem State.driveLine_cfg (r : Nat) (level : Bool) : (s.driveLine r level).cfg = s.cfg := rfl
@[simp] theorem State.driveLine_gs (r : Nat) (level : Bool) : (s.driveLine r level).gs = s.gs := rfl
@[simp] theorem State.driveLine_po (r : Nat) (level : Bool) : (s.driveLine r level).po = s.po := rfl
@[simp] theorem State.driveLine_phase (r : Nat) (level : Bool) : (s.driveLine r level).phase = s.phase := rfl
@[simp] theorem State.driveLine_accum (r : Nat) (level : Bool) : (s.driveLine r level).accum = s.accum := rfl
@[simp] theorem State.driveLine_cursor (r : Nat) (level : Bool) : (s.driveLine r level).cursor = s.cursor := rfl
@[simp] theorem State.driveLine_pendingRow (r : Nat) (level : Bool) : (s.driveLine r level).pendingRow = s.pendingRow := rfl
@[simp] theorem State.driveLine_latch (r : Nat) (level : Bool) : (s.driveLine r level).latch = tableWrite false s.latch r level := rfl
@[simp] theorem State.driveLine_rspPort (r : Nat) (level : Bool) : (s.driveLine r level).rspPort = s.rspPort := rfl
@[simp] theorem State.driveLine_inReset (r : Nat) (level : Bool) : (s.driveLine r level).inReset = s.inReset := rfl
@[simp] theorem State.driveLine_offered (r : Nat) (level : Bool) : (s.driveLine r level).offered = s.offered := rfl
@[simp] theorem State.driveLine_hostReady (r : Nat) (level : Bool) : (s.driveLine r level).hostReady = s.hostReady := rfl
@[simp] theorem State.driveLine_replies (r : Nat) (level : Bool) : (s.driveLine r level).replies = s.replies := rfl
@[simp] theorem State.driveLine_cfgInputs (r : Nat) (level : Bool) : (s.driveLine r level).cfgInputs = s.cfgInputs := rfl
@[simp] theorem State.driveLine_resetAfter (r : Nat) (level : Bool) : (s.driveLine r level).resetAfter = s.resetAfter := rfl
@[simp] theorem State.driveLine_attempts (r : Nat) (level : Bool) : (s.driveLine r level).attempts = s.attempts := rfl
@[simp] theorem State.driveLine_log (r : Nat) (level : Bool) : (s.driveLine r level).log = s.log ++ [.line r level] := rfl

/-! ### endShift -/

@[simp] theorem State.endShift_cfg : (s.endShift).cfg = s.cfg := rfl
@[simp] theorem State.endShift_gs : (s.endShift).gs = s.gs := rfl
@[simp] theorem State.endShift_po : (s.endShift).po = s.po := rfl
@[simp] theorem State.endShift_phase : (s.endShift).phase = s.phase := rfl
@[simp] theorem State.endShift_accum : (s.endShift).accum = Accumulator.empty := rfl
@[simp] theorem State.endShift_cursor : (s.endShift).cursor = none := rfl
@[simp] theorem State.endShift_pendingRow : (s.endShift).pendingRow = s.pendingRow := rfl
@[simp] theorem State.endShift_latch : (s.endShift).latch = s.latch := rfl
@[simp] theorem State.endShift_rspPort : (s.endShift).rspPort = s.rspPort := rfl
@[simp] theorem State.endShift_inReset : (s.endShift).inReset = s.inReset := rfl
@[simp] theorem State.endShift_offered : (s.endShift).offered = s.offered := rfl
@[simp] theorem State.endShift_hostReady : (s.endShift).hostReady = s.hostReady := rfl
@[simp] theorem State.endShift_replies : (s.endShift).replies = s.replies := rfl
@[simp] theorem State.endShift_cfgInputs : (s.endShift).cfgInputs = s.cfgInputs := rfl
@[simp] theorem State.endShift_resetAfter : (s.endShift).resetAfter = s.resetAfter := rfl
@[simp] theorem State.endShift_attempts : (s.endShift).attempts = s.attempts := rfl
@[simp] theorem State.endShift_log : (s.endShift).log = s.log := rfl

/-! ### byteAnswered -/

@[simp] theorem State.byteAnswered_cfg (b : Byte) (a : Answer) : (s.byteAnswered b a).cfg = s.cfg := rfl
@[simp] theorem State.byteAnswered_gs (b : Byte) (a : Answer) : (s.byteAnswered b a).gs = s.gs := rfl
@[simp] theorem State.byteAnswered_po (b : Byte) (a : Answer) : (s.byteAnswered b a).po = s.po := rfl
@[simp] theorem State.byteAnswered_phase (b : Byte) (a : Answer) : (s.byteAnswered b a).phase = s.phase := rfl
@[simp] theorem State.byteAnswered_accum (b : Byte) (a : Answer) : (s.byteAnswered b a).accum = s.accum := rfl
@[simp] theorem State.byteAnswered_cursor (b : Byte) (a : Answer) : (s.byteAnswered b a).cursor = s.cursor := rfl
@[simp] theorem State.byteAnswered_pendingRow (b : Byte) (a : Answer) : (s.byteAnswered b a).pendingRow = s.pendingRow := rfl
@[simp] theorem State.byteAnswered_latch (b : Byte) (a : Answer) : (s.byteAnswered b a).latch = s.latch := rfl
@[simp] theorem State.byteAnswered_rspPort (b : Byte) (a : Answer) : (s.byteAnswered b a).rspPort = s.rspPort := rfl
@[simp] theorem State.byteAnswered_inReset (b : Byte) (a : Answer) : (s.byteAnswered b a).inReset = s.inReset := rfl
@[simp] theorem State.byteAnswered_offered (b : Byte) (a : Answer) : (s.byteAnswered b a).offered = s.offered := rfl
@[simp] theorem State.byteAnswered_hostReady (b : Byte) (a : Answer) : (s.byteAnswered b a).hostReady = s.hostReady := rfl
@[simp] theorem State.byteAnswered_replies (b : Byte) (a : Answer) : (s.byteAnswered b a).replies = s.replies.tail := rfl
@[simp] theorem State.byteAnswered_cfgInputs (b : Byte) (a : Answer) : (s.byteAnswered b a).cfgInputs = s.cfgInputs := rfl
@[simp] theorem State.byteAnswered_resetAfter (b : Byte) (a : Answer) : (s.byteAnswered b a).resetAfter = s.resetAfter.map fun k => k - 1 := rfl
@[simp] theorem State.byteAnswered_attempts (b : Byte) (a : Answer) : (s.byteAnswered b a).attempts = s.attempts + 1 := rfl
@[simp] theorem State.byteAnswered_log (b : Byte) (a : Answer) : (s.byteAnswered b a).log = s.log ++ [.byte b a] := rfl

/-! ### byteUnanswered -/

@[simp] theorem State.byteUnanswered_cfg : (s.byteUnanswered).cfg = s.cfg := rfl
@[simp] theorem State.byteUnanswered_gs : (s.byteUnanswered).gs = s.gs := rfl
@[simp] theorem State.byteUnanswered_po : (s.byteUnanswered).po = s.po := rfl
@[simp] theorem State.byteUnanswered_phase : (s.byteUnanswered).phase = s.phase := rfl
@[simp] theorem State.byteUnanswered_accum : (s.byteUnanswered).accum = s.accum := rfl
@[simp] theorem State.byteUnanswered_cursor : (s.byteUnanswered).cursor = s.cursor := rfl
@[simp] theorem State.byteUnanswered_pendingRow : (s.byteUnanswered).pendingRow = s.pendingRow := rfl
@[simp] theorem State.byteUnanswered_latch : (s.byteUnanswered).latch = s.latch := rfl
@[simp] theorem State.byteUnanswered_rspPort : (s.byteUnanswered).rspPort = s.rspPort := rfl
@[simp] theorem State.byteUnanswered_inReset : (s.byteUnanswered).inReset = s.inReset := rfl
@[simp] theorem State.byteUnanswered_offered : (s.byteUnanswered).offered = s.offered := rfl
@[simp] theorem State.byteUnanswered_hostReady : (s.byteUnanswered).hostReady = s.hostReady := rfl
@[simp] theorem State.byteUnanswered_replies : (s.byteUnanswered).replies = s.replies.tail := rfl
@[simp] theorem State.byteUnanswered_cfgInputs : (s.byteUnanswered).cfgInputs = s.cfgInputs := rfl
@[simp] theorem State.byteUnanswered_resetAfter : (s.byteUnanswered).resetAfter = s.resetAfter := rfl
@[simp] theorem State.byteUnanswered_attempts : (s.byteUnanswered).attempts = s.attempts := rfl
@[simp] theorem State.byteUnanswered_log : (s.byteUnanswered).log = s.log := rfl

/-! ### assertReset -/

@[simp] theorem State.assertReset_cfg : (s.assertReset).cfg = s.cfg := rfl
@[simp] theorem State.assertReset_gs : (s.assertReset).gs = s.gs := rfl
@[simp] theorem State.assertReset_po : (s.assertReset).po = s.po := rfl
@[simp] theorem State.assertReset_phase : (s.assertReset).phase = s.phase := rfl
@[simp] theorem State.assertReset_accum : (s.assertReset).accum = s.accum := rfl
@[simp] theorem State.assertReset_cursor : (s.assertReset).cursor = s.cursor := rfl
@[simp] theorem State.assertReset_pendingRow : (s.assertReset).pendingRow = s.pendingRow := rfl
@[simp] theorem State.assertReset_latch : (s.assertReset).latch = [] := rfl
@[simp] theorem State.assertReset_rspPort : (s.assertReset).rspPort = s.rspPort := rfl
@[simp] theorem State.assertReset_inReset : (s.assertReset).inReset = true := rfl
@[simp] theorem State.assertReset_offered : (s.assertReset).offered = s.offered := rfl
@[simp] theorem State.assertReset_hostReady : (s.assertReset).hostReady = s.hostReady := rfl
@[simp] theorem State.assertReset_replies : (s.assertReset).replies = s.replies := rfl
@[simp] theorem State.assertReset_cfgInputs : (s.assertReset).cfgInputs = s.cfgInputs := rfl
@[simp] theorem State.assertReset_resetAfter : (s.assertReset).resetAfter = none := rfl
@[simp] theorem State.assertReset_attempts : (s.assertReset).attempts = s.attempts := rfl
@[simp] theorem State.assertReset_log : (s.assertReset).log = s.log ++ (s.latch.map fun e => Event.line e.1 false) ++ [.resetAsserted] := rfl

/-! ### released -/

@[simp] theorem State.released_cfg : (s.released).cfg = s.cfgInputs := rfl
@[simp] theorem State.released_gs : (s.released).gs = [] := rfl
@[simp] theorem State.released_po : (s.released).po = [] := rfl
@[simp] theorem State.released_phase : (s.released).phase = .idle := rfl
@[simp] theorem State.released_accum : (s.released).accum = ⟨0, 0⟩ := rfl
@[simp] theorem State.released_cursor : (s.released).cursor = none := rfl
@[simp] theorem State.released_pendingRow : (s.released).pendingRow = none := rfl
@[simp] theorem State.released_latch : (s.released).latch = [] := rfl
@[simp] theorem State.released_rspPort : (s.released).rspPort = none := rfl
@[simp] theorem State.released_inReset : (s.released).inReset = false := rfl
@[simp] theorem State.released_offered : (s.released).offered = s.offered := rfl
@[simp] theorem State.released_hostReady : (s.released).hostReady = s.hostReady := rfl
@[simp] theorem State.released_replies : (s.released).replies = s.replies := rfl
@[simp] theorem State.released_cfgInputs : (s.released).cfgInputs = s.cfgInputs := rfl
@[simp] theorem State.released_resetAfter : (s.released).resetAfter = none := rfl
@[simp] theorem State.released_attempts : (s.released).attempts = s.attempts := rfl
@[simp] theorem State.released_log : (s.released).log = s.log := rfl

/-! ### responseTaken -/

@[simp] theorem State.responseTaken_cfg : (s.responseTaken).cfg = s.cfg := rfl
@[simp] theorem State.responseTaken_gs : (s.responseTaken).gs = s.gs := rfl
@[simp] theorem State.responseTaken_po : (s.responseTaken).po = s.po := rfl
@[simp] theorem State.responseTaken_phase : (s.responseTaken).phase = s.phase := rfl
@[simp] theorem State.responseTaken_accum : (s.responseTaken).accum = s.accum := rfl
@[simp] theorem State.responseTaken_cursor : (s.responseTaken).cursor = s.cursor := rfl
@[simp] theorem State.responseTaken_pendingRow : (s.responseTaken).pendingRow = s.pendingRow := rfl
@[simp] theorem State.responseTaken_latch : (s.responseTaken).latch = s.latch := rfl
@[simp] theorem State.responseTaken_rspPort : (s.responseTaken).rspPort = none := rfl
@[simp] theorem State.responseTaken_inReset : (s.responseTaken).inReset = s.inReset := rfl
@[simp] theorem State.responseTaken_offered : (s.responseTaken).offered = s.offered := rfl
@[simp] theorem State.responseTaken_hostReady : (s.responseTaken).hostReady = s.hostReady := rfl
@[simp] theorem State.responseTaken_replies : (s.responseTaken).replies = s.replies := rfl
@[simp] theorem State.responseTaken_cfgInputs : (s.responseTaken).cfgInputs = s.cfgInputs := rfl
@[simp] theorem State.responseTaken_resetAfter : (s.responseTaken).resetAfter = s.resetAfter.map fun k => k - 1 := rfl
@[simp] theorem State.responseTaken_attempts : (s.responseTaken).attempts = s.attempts := rfl
@[simp] theorem State.responseTaken_log : (s.responseTaken).log = s.log := rfl

/-! ### commandAccepted -/

@[simp] theorem State.commandAccepted_cfg (rest : List Word) : (s.commandAccepted rest).cfg = s.cfg := rfl
@[simp] theorem State.commandAccepted_gs (rest : List Word) : (s.commandAccepted rest).gs = s.gs := rfl
@[simp] theorem State.commandAccepted_po (rest : List Word) : (s.commandAccepted rest).po = s.po := rfl
@[simp] theorem State.commandAccepted_phase (rest : List Word) : (s.commandAccepted rest).phase = s.phase := rfl
@[simp] theorem State.commandAccepted_accum (rest : List Word) : (s.commandAccepted rest).accum = s.accum := rfl
@[simp] theorem State.commandAccepted_cursor (rest : List Word) : (s.commandAccepted rest).cursor = s.cursor := rfl
@[simp] theorem State.commandAccepted_pendingRow (rest : List Word) : (s.commandAccepted rest).pendingRow = s.pendingRow := rfl
@[simp] theorem State.commandAccepted_latch (rest : List Word) : (s.commandAccepted rest).latch = s.latch := rfl
@[simp] theorem State.commandAccepted_rspPort (rest : List Word) : (s.commandAccepted rest).rspPort = s.rspPort := rfl
@[simp] theorem State.commandAccepted_inReset (rest : List Word) : (s.commandAccepted rest).inReset = s.inReset := rfl
@[simp] theorem State.commandAccepted_offered (rest : List Word) : (s.commandAccepted rest).offered = rest := rfl
@[simp] theorem State.commandAccepted_hostReady (rest : List Word) : (s.commandAccepted rest).hostReady = s.hostReady := rfl
@[simp] theorem State.commandAccepted_replies (rest : List Word) : (s.commandAccepted rest).replies = s.replies := rfl
@[simp] theorem State.commandAccepted_cfgInputs (rest : List Word) : (s.commandAccepted rest).cfgInputs = s.cfgInputs := rfl
@[simp] theorem State.commandAccepted_resetAfter (rest : List Word) : (s.commandAccepted rest).resetAfter = s.resetAfter.map fun k => k - 1 := rfl
@[simp] theorem State.commandAccepted_attempts (rest : List Word) : (s.commandAccepted rest).attempts = s.attempts := rfl
@[simp] theorem State.commandAccepted_log (rest : List Word) : (s.commandAccepted rest).log = s.log := rfl

/-! ### offerFirst -/

@[simp] theorem State.offerFirst_cfg (w : Word) : (s.offerFirst w).cfg = s.cfg := rfl
@[simp] theorem State.offerFirst_gs (w : Word) : (s.offerFirst w).gs = s.gs := rfl
@[simp] theorem State.offerFirst_po (w : Word) : (s.offerFirst w).po = s.po := rfl
@[simp] theorem State.offerFirst_phase (w : Word) : (s.offerFirst w).phase = .idle := rfl
@[simp] theorem State.offerFirst_accum (w : Word) : (s.offerFirst w).accum = s.accum := rfl
@[simp] theorem State.offerFirst_cursor (w : Word) : (s.offerFirst w).cursor = s.cursor := rfl
@[simp] theorem State.offerFirst_pendingRow (w : Word) : (s.offerFirst w).pendingRow = s.pendingRow := rfl
@[simp] theorem State.offerFirst_latch (w : Word) : (s.offerFirst w).latch = s.latch := rfl
@[simp] theorem State.offerFirst_rspPort (w : Word) : (s.offerFirst w).rspPort = none := rfl
@[simp] theorem State.offerFirst_inReset (w : Word) : (s.offerFirst w).inReset = false := rfl
@[simp] theorem State.offerFirst_offered (w : Word) : (s.offerFirst w).offered = w :: s.offered := rfl
@[simp] theorem State.offerFirst_hostReady (w : Word) : (s.offerFirst w).hostReady = s.hostReady := rfl
@[simp] theorem State.offerFirst_replies (w : Word) : (s.offerFirst w).replies = s.replies := rfl
@[simp] theorem State.offerFirst_cfgInputs (w : Word) : (s.offerFirst w).cfgInputs = s.cfgInputs := rfl
@[simp] theorem State.offerFirst_resetAfter (w : Word) : (s.offerFirst w).resetAfter = none := rfl
@[simp] theorem State.offerFirst_attempts (w : Word) : (s.offerFirst w).attempts = s.attempts := rfl
@[simp] theorem State.offerFirst_log (w : Word) : (s.offerFirst w).log = s.log := rfl

/-- No moment counts down to a reset that is not coming. -/
theorem State.tick_of_none {s : State} (h : s.resetAfter = none) : s.tick = s := by
  cases s; simp_all [State.tick]

theorem State.resetDue_iff {s : State} : s.resetDue = true ↔ s.resetAfter = some 0 := by
  simp [State.resetDue]

@[simp] theorem State.resetDue_of_none {s : State} (h : s.resetAfter = none) : s.resetDue = false := by
  simp [State.resetDue, h]

end Sys2Proof.Machine
end

