-- ==== Sys2Proof/Laws/Ops.lean ====
section
/-! SUPPORT. What each shared operation can do, said once: responses (30_encoding.md R88), the setter procedure (40_store.md R100), the
byte port (60_exceptions.md R205), and that a transmission keeps the store, the pin orders and the configuration
(42_bit_packer.md R166). -/

namespace Sys2Proof.Machine

/-! ### Responses -/

/-- With no reset coming, `respond` puts the word on the port and records it, and changes nothing else (R88). -/
theorem respond_eq {s : State} (h : s.resetAfter = none) (op : BitVec 8) (st : Status) (n : Nat) (d0 d1 d2 : Gray) :
    respond op st n d0 d1 d2 s =
      { s with
        rspPort := some (responseWord op st n d0 d1 d2)
        log := s.log ++ [.resp (responseWord op st n d0 d1 d2)] } := by
  simp [respond, h, State.tick, State.logged]

/-- A command that reset aborts before its response gets none (70_reset_and_hazards.md R232). -/
theorem respond_aborted {s : State} (h : s.resetAfter = some 0) (op : BitVec 8) (st : Status) (n : Nat) (d0 d1 d2 : Gray) :
    respond op st n d0 d1 d2 s = s.assertReset := by
  simp [respond, State.resetDue_iff.mpr h]

/-- The two things `respond` can do. -/
theorem respond_cases (op : BitVec 8) (st : Status) (n : Nat) (d0 d1 d2 : Gray) (s : State) :
    (s.resetAfter = some 0 ∧ respond op st n d0 d1 d2 s = s.assertReset) ∨
      (s.resetAfter ≠ some 0 ∧ respond op st n d0 d1 d2 s =
        ({ s with rspPort := some (responseWord op st n d0 d1 d2) }.logged (.resp (responseWord op st n d0 d1 d2))).tick) := by
  by_cases h : s.resetAfter = some 0
  · exact .inl ⟨h, respond_aborted h ..⟩
  · exact .inr ⟨h, by simp [respond, State.resetDue, h]⟩

section
variable (op : BitVec 8) (st : Status) (n : Nat) (d0 d1 d2 : Gray) (s : State)

@[simp] theorem respond_cfg : (respond op st n d0 d1 d2 s).cfg = s.cfg := by
  rcases respond_cases op st n d0 d1 d2 s with ⟨-, h⟩ | ⟨-, h⟩ <;> simp [h]
@[simp] theorem respond_gs : (respond op st n d0 d1 d2 s).gs = s.gs := by
  rcases respond_cases op st n d0 d1 d2 s with ⟨-, h⟩ | ⟨-, h⟩ <;> simp [h]
@[simp] theorem respond_po : (respond op st n d0 d1 d2 s).po = s.po := by
  rcases respond_cases op st n d0 d1 d2 s with ⟨-, h⟩ | ⟨-, h⟩ <;> simp [h]
@[simp] theorem respond_phase : (respond op st n d0 d1 d2 s).phase = s.phase := by
  rcases respond_cases op st n d0 d1 d2 s with ⟨-, h⟩ | ⟨-, h⟩ <;> simp [h]
@[simp] theorem respond_accum : (respond op st n d0 d1 d2 s).accum = s.accum := by
  rcases respond_cases op st n d0 d1 d2 s with ⟨-, h⟩ | ⟨-, h⟩ <;> simp [h]
@[simp] theorem respond_cursor : (respond op st n d0 d1 d2 s).cursor = s.cursor := by
  rcases respond_cases op st n d0 d1 d2 s with ⟨-, h⟩ | ⟨-, h⟩ <;> simp [h]
@[simp] theorem respond_pendingRow : (respond op st n d0 d1 d2 s).pendingRow = s.pendingRow := by
  rcases respond_cases op st n d0 d1 d2 s with ⟨-, h⟩ | ⟨-, h⟩ <;> simp [h]
@[simp] theorem respond_offered : (respond op st n d0 d1 d2 s).offered = s.offered := by
  rcases respond_cases op st n d0 d1 d2 s with ⟨-, h⟩ | ⟨-, h⟩ <;> simp [h]
@[simp] theorem respond_cfgInputs : (respond op st n d0 d1 d2 s).cfgInputs = s.cfgInputs := by
  rcases respond_cases op st n d0 d1 d2 s with ⟨-, h⟩ | ⟨-, h⟩ <;> simp [h]
end

/-! ### The limit pass and the setter procedure -/

/-- A limited value is at most `MAX_ALLOWED` when limiting is on (41_current_limiter.md R140). -/
theorem limited_le {c : Config} (h : c.limitEn = true) (v : Gray) : (limited c v).toNat ≤ c.maxAllowed.toNat := by
  by_cases hv : c.maxAllowed.toNat < v.toNat
  · simp [limited, clamps, h, hv]
  · simp [limited, clamps, h, hv]; omega

/-- The limited value is the smaller of the candidate and `MAX_ALLOWED` (R140). -/
theorem limited_toNat {c : Config} (h : c.limitEn = true) (v : Gray) :
    (limited c v).toNat = min v.toNat c.maxAllowed.toNat := by
  by_cases hv : c.maxAllowed.toNat < v.toNat
  · simp [limited, clamps, h, hv]; omega
  · simp [limited, clamps, h, hv]; omega

/-- With limiting off the pass is the identity (R142). -/
theorem limited_off {c : Config} (h : c.limitEn = false) (v : Gray) : limited c v = v := by
  simp [limited, clamps, h]

theorem clamps_off {c : Config} (h : c.limitEn = false) (v : Gray) : clamps c v = false := by
  simp [clamps, h]

/-- A setter either raises OUT_OF_RANGE or limits and commits its candidates (40_store.md R100). -/
theorem setter_cases (op : BitVec 8) (ok : Bool) (cand : List (Nat × Gray)) (s : State) :
    (ok = false ∧ setter op ok cand s = raise op .outOfRange s) ∨
      (ok = true ∧ setter op ok cand s = limitAndCommit op cand s) := by
  cases ok <;> simp [setter]

/-! ### Progress -/

/-- The state an operation ended in, however it ended. -/
def Progress.state : Progress → State
  | .ok s => s
  | .fail s => s
  | .halted s => s

@[simp] theorem Progress.state_ok (s : State) : (Progress.ok s).state = s := rfl
@[simp] theorem Progress.state_fail (s : State) : (Progress.fail s).state = s := rfl
@[simp] theorem Progress.state_halted (s : State) : (Progress.halted s).state = s := rfl

@[simp] theorem Progress.andThen_ok (s : State) (f : State → Progress) : (Progress.ok s).andThen f = f s := rfl
@[simp] theorem Progress.andThen_fail (s : State) (f : State → Progress) : (Progress.fail s).andThen f = .fail s := rfl
@[simp] theorem Progress.andThen_halted (s : State) (f : State → Progress) : (Progress.halted s).andThen f = .halted s := rfl

/-- A property of end states that a first operation establishes and a second keeps. -/
theorem Progress.andThen_state {P : State → Prop} {p : Progress} {f : State → Progress} (hp : P p.state)
    (hf : ∀ s, P s → P (f s).state) : P (p.andThen f).state := by
  cases p with
  | ok s => exact hf s hp
  | fail s => exact hp
  | halted s => exact hp

/-! ### The byte port (60_exceptions.md R205) -/

/-- Everything `emit` can do: reset aborts it, the transport never answers, it answers `ok`, or it answers `fail`. -/
theorem emit_cases (b : Byte) (s : State) :
    (s.resetAfter = some 0 ∧ emit b s = .halted s.assertReset) ∨
      (s.resetAfter ≠ some 0 ∧ s.nextReply = .never ∧
        emit b s = .halted (if s.resetAfter.isSome then s.byteUnanswered.assertReset else s.byteUnanswered)) ∨
      (s.resetAfter ≠ some 0 ∧ s.nextReply = .answer .ok ∧ emit b s = .ok (s.byteAnswered b .ok)) ∨
      (s.resetAfter ≠ some 0 ∧ s.nextReply = .answer .fail ∧ emit b s = .fail (s.byteAnswered b .fail)) := by
  by_cases h : s.resetAfter = some 0
  · exact .inl ⟨h, by simp [emit, State.resetDue, h]⟩
  · refine .inr ?_
    cases hr : s.nextReply with
    | never => exact .inl ⟨h, rfl, by simp [emit, State.resetDue, h, hr]⟩
    | answer a =>
      cases a with
      | ok => exact .inr (.inl ⟨h, rfl, by simp [emit, State.resetDue, h, hr]⟩)
      | fail => exact .inr (.inr ⟨h, rfl, by simp [emit, State.resetDue, h, hr]⟩)

/-- With no reset coming and `ok` as the next reply, the byte goes out and is recorded. -/
theorem emit_ok {s : State} {rs : List Reply} (h : s.resetAfter = none) (hr : s.replies = .answer .ok :: rs) (b : Byte) :
    emit b s = .ok { s with replies := rs, attempts := s.attempts + 1, log := s.log ++ [.byte b .ok] } := by
  simp [emit, State.resetDue, h, State.nextReply, hr, State.byteAnswered, State.logged, State.tick]

/-- With no reset coming and `fail` as the next reply, the byte is recorded as refused. -/
theorem emit_fail {s : State} {rs : List Reply} (h : s.resetAfter = none) (hr : s.replies = .answer .fail :: rs) (b : Byte) :
    emit b s = .fail { s with replies := rs, attempts := s.attempts + 1, log := s.log ++ [.byte b .fail] } := by
  simp [emit, State.resetDue, h, State.nextReply, hr, State.byteAnswered, State.logged, State.tick]

/-- With no reset coming and `never` as the next reply, the block waits: only the reply is gone from the list. -/
theorem emit_never {s : State} {rs : List Reply} (h : s.resetAfter = none) (hr : s.replies = .never :: rs) (b : Byte) :
    emit b s = .halted { s with replies := rs } := by
  simp [emit, State.resetDue, h, State.nextReply, hr, State.byteUnanswered]

/-! ### What a transmission keeps (42_bit_packer.md R166) -/

/-- `t` has the store, the pin orders, the configuration, the pending row and the ports of `s`. -/
def KeepsData (s t : State) : Prop :=
  t.cfg = s.cfg ∧ t.gs = s.gs ∧ t.po = s.po ∧ t.pendingRow = s.pendingRow ∧ t.rspPort = s.rspPort ∧
    t.offered = s.offered ∧ t.hostReady = s.hostReady ∧ t.cfgInputs = s.cfgInputs

theorem KeepsData.refl (s : State) : KeepsData s s := ⟨rfl, rfl, rfl, rfl, rfl, rfl, rfl, rfl⟩

theorem KeepsData.trans {s t u : State} (h1 : KeepsData s t) (h2 : KeepsData t u) : KeepsData s u := by
  obtain ⟨a, b, c, d, e, f, g, h⟩ := h1
  obtain ⟨a', b', c', d', e', f', g', h'⟩ := h2
  exact ⟨a'.trans a, b'.trans b, c'.trans c, d'.trans d, e'.trans e, f'.trans f, g'.trans g, h'.trans h⟩

theorem emit_keeps (b : Byte) (s : State) : KeepsData s (emit b s).state := by
  rcases emit_cases b s with ⟨-, h⟩ | ⟨-, -, h⟩ | ⟨-, -, h⟩ | ⟨-, -, h⟩
  · rw [h]; exact KeepsData.refl s
  · rw [h]; simp only [Progress.state_halted]; split <;> exact KeepsData.refl s
  · rw [h]; exact KeepsData.refl s
  · rw [h]; exact KeepsData.refl s

theorem andThen_keeps {s : State} {p : Progress} {f : State → Progress} (hp : KeepsData s p.state)
    (hf : ∀ t, KeepsData t (f t).state) : KeepsData s (p.andThen f).state :=
  Progress.andThen_state (P := KeepsData s) hp fun t ht => ht.trans (hf t)

theorem drain_keeps (n : Nat) (s : State) : KeepsData s (drain n s).state := by
  induction n generalizing s with
  | zero => exact KeepsData.refl s
  | succ n ih =>
    exact andThen_keeps (KeepsData.trans (t := { s with accum := s.accum.drop8 }) ⟨rfl, rfl, rfl, rfl, rfl, rfl, rfl, rfl⟩
      (emit_keeps _ _)) ih

theorem push_keeps (v : Gray) (s : State) : KeepsData s (push v s).state :=
  KeepsData.trans (t := { s with accum := s.accum.shiftIn v }) ⟨rfl, rfl, rfl, rfl, rfl, rfl, rfl, rfl⟩ (drain_keeps _ _)

theorem flush_keeps (s : State) : KeepsData s (flush s).state := by
  unfold flush
  split
  · exact KeepsData.trans (t := { s with accum := Accumulator.empty }) ⟨rfl, rfl, rfl, rfl, rfl, rfl, rfl, rfl⟩ (emit_keeps _ _)
  · exact KeepsData.refl s

theorem pushWalk_keeps (ks : List Cursor) (s : State) : KeepsData s (pushWalk ks s).state := by
  induction ks generalizing s with
  | nil => exact KeepsData.refl s
  | cons k ks ih =>
    exact andThen_keeps (KeepsData.trans (t := { s with cursor := some k }) ⟨rfl, rfl, rfl, rfl, rfl, rfl, rfl, rfl⟩
      (push_keeps _ _)) ih

/-- `ShiftRow` "reads `GS` and `PO` and writes neither" (R166). -/
theorem shiftRow_keeps (r : Nat) (s : State) : KeepsData s (shiftRow r s).state := by
  have h : KeepsData s ((pushWalk (walk s.cfg r)
      { s.enterPhase .shifting r with accum := Accumulator.empty }).andThen flush).state :=
    andThen_keeps (KeepsData.trans (t := { s.enterPhase .shifting r with accum := Accumulator.empty })
      ⟨rfl, rfl, rfl, rfl, rfl, rfl, rfl, rfl⟩ (pushWalk_keeps _ _)) flush_keeps
  unfold shiftRow
  split <;> rename_i heq <;> rw [heq] at h <;> exact h

/-- A latch pulse writes neither the store nor the pin orders (43_latch.md R182). -/
theorem pulse_keeps (r : Nat) (s : State) : KeepsData s (pulse r s).state := by
  unfold pulse
  split
  · simp [KeepsData]
  · dsimp only
    split <;> simp [KeepsData]

/-- UPDATE "writes neither the store nor `PO`" (43_latch.md R186). -/
theorem updateRows_keeps (rs : List Nat) (s : State) : KeepsData s (updateRows rs s).state := by
  induction rs generalizing s with
  | nil => exact KeepsData.refl s
  | cons r rs ih =>
    have h := shiftRow_keeps r s
    unfold updateRows
    split <;> rename_i s1 heq <;> rw [heq] at h
    · exact andThen_keeps (h.trans (pulse_keeps r (s1.enterPhase .latching r))) fun t => ih (t.enterPhase .idle r)
    · exact h
    · exact h

/-! ### The latch pulse (43_latch.md R182) -/

/-- With no reset coming and every line at 0, a pulse raises and lowers its line and is recorded as completed; the lines end at 0. -/
theorem pulse_eq {s : State} (h : s.resetAfter = none) (hl : s.latch = []) (r : Nat) :
    pulse r s = .ok { s with log := s.log ++ [.line r true, .line r false, .latchPulse r] } := by
  cases s
  simp_all [pulse, State.resetDue, State.driveLine, State.tick, State.logged, tableWrite]

/-! ### Commits -/

/-- With no reset coming, a setter's last phases write the limited candidates and answer OK with the count (40_store.md R100). -/
theorem limitAndCommit_eq {s : State} (h : s.resetAfter = none) (op : BitVec 8) (cand : List (Nat × Gray)) :
    limitAndCommit op cand s =
      { s with
        gs := Memory.writeAll s.gs (cand.map fun e => (e.1, limited s.cfg e.2))
        rspPort := some (responseWord op .ok (cand.countP fun e => clamps s.cfg e.2) 0 0 0)
        log := s.log ++ [.resp (responseWord op .ok (cand.countP fun e => clamps s.cfg e.2) 0 0 0)] } := by
  simp only [limitAndCommit, limitPass]
  rw [respond_eq]
  exact h

/-- The store after a commit is in canonical form and holds cells of the chain only. -/
theorem storeSound_writeAll {s : State} (h : Memory.wf s.gs = true ∧ tableBelow (totalChannels s.cfg) s.gs = true)
    {cand : List (Nat × Gray)} (hc : ∀ e ∈ cand, e.1 < totalChannels s.cfg) :
    Memory.wf (Memory.writeAll s.gs cand) = true ∧ tableBelow (totalChannels s.cfg) (Memory.writeAll s.gs cand) = true :=
  ⟨Memory.wf_writeAll h.1 cand, tableBelow_writeAll h.2 hc⟩

/-- With no reset coming, a pin-order commit writes the entries and answers OK (40_store.md R124, R126). -/
theorem commitPinOrder_eq {s : State} (h : s.resetAfter = none) (op : BitVec 8) (leds : List Nat) (o : PinOrder) :
    commitPinOrder op leds o s =
      { s with
        po := tableWriteAll (initialPinOrder s.cfg) s.po (leds.map fun led => (led, o))
        rspPort := some (responseWord op .ok 0 0 0 0)
        log := s.log ++ [.resp (responseWord op .ok 0 0 0 0)] } := by
  simp only [commitPinOrder]
  rw [respond_eq]
  exact h

/-- The two things the check for the latch controller can do (30_encoding.md R85 case 3). -/
theorem withLatchCtrl_cases (op : BitVec 8) (run : State → State) (s : State) :
    (s.cfg.hasLatchCtrl = true ∧ withLatchCtrl op run s = run s) ∨
      (s.cfg.hasLatchCtrl = false ∧ withLatchCtrl op run s = raise op .illegalCommand s) := by
  cases h : s.cfg.hasLatchCtrl <;> simp [withLatchCtrl, h]

end Sys2Proof.Machine
end

