-- ==== Sys2Proof/Laws/PerInstr.lean ====
section
/-! SUPPORT. Statements about every command, one lemma per constructor. -/

namespace Sys2Proof.Laws.EncodeMatchesRow

/-- The word of a command matches the row of its opcode: outside the operand fields it holds `OP` and zeros (30_encoding.md R84). -/
def Statement (i : Instr) : Prop := encode i &&& i.opcode.mask = i.opcode.pattern

/-- An append under an append, part by part. -/
theorem and_parts {m n : Nat} {a c x : BitVec m} {b d y : BitVec n} (h1 : a &&& c = x) (h2 : b &&& d = y) :
    (a ++ b) &&& (c ++ d) = x ++ y := by
  rw [BitVec.and_append, h1, h2]

/-- An assembled word under a mask, field by field. -/
theorem assembleWord_and (op aux mop maux : BitVec 8) (idx midx : BitVec 32) (va vb vc mva mvb mvc m0 m1 : BitVec 16) :
    assembleWord op aux idx va vb vc &&& (mop ++ maux ++ m0 ++ midx ++ mva ++ mvb ++ mvc ++ m1 : Word) =
      assembleWord (op &&& mop) (aux &&& maux) (idx &&& midx) (va &&& mva) (vb &&& mvb) (vc &&& mvc) :=
  and_parts (and_parts (and_parts (and_parts (and_parts (and_parts (and_parts rfl rfl) BitVec.zero_and) rfl) rfl) rfl) rfl)
    BitVec.zero_and

/-- The two bits above a permutation code are 0 (R84: `AUX[7:6]` is inside the mask). -/
theorem aux_and (code : BitVec 6) : (0#2 ++ code : BitVec 8) &&& 0xC0#8 = 0#8 := by
  have : 0xC0#8 = 3#2 ++ 0#6 := rfl
  rw [this, BitVec.and_append]
  simp

theorem setAll (v : Nat) : Statement (.setAll v) := by
  have h : Opcode.setAll.mask = 0xFF#8 ++ 0xFF#8 ++ 0xFFFF#16 ++ 0xFFFFFFFF#32 ++ 0x0000#16 ++ 0xFFFF#16 ++ 0xFFFF#16 ++ 0xFFFF#16 := rfl
  simp only [Statement, Instr.opcode, encode]
  rw [h, assembleWord_and]
  simp
  rfl

theorem setAllRgb (r g b : Nat) : Statement (.setAllRgb r g b) := by
  have h : Opcode.setAllRgb.mask = 0xFF#8 ++ 0xFF#8 ++ 0xFFFF#16 ++ 0xFFFFFFFF#32 ++ 0x0000#16 ++ 0x0000#16 ++ 0x0000#16 ++ 0xFFFF#16 := rfl
  simp only [Statement, Instr.opcode, encode]
  rw [h, assembleWord_and]
  simp
  rfl

theorem setLedMono (led v : Nat) : Statement (.setLedMono led v) := by
  have h : Opcode.setLedMono.mask = 0xFF#8 ++ 0xFF#8 ++ 0xFFFF#16 ++ 0x00000000#32 ++ 0x0000#16 ++ 0xFFFF#16 ++ 0xFFFF#16 ++ 0xFFFF#16 := rfl
  simp only [Statement, Instr.opcode, encode]
  rw [h, assembleWord_and]
  simp
  rfl

theorem setLedRgb (led r g b : Nat) : Statement (.setLedRgb led r g b) := by
  have h : Opcode.setLedRgb.mask = 0xFF#8 ++ 0xFF#8 ++ 0xFFFF#16 ++ 0x00000000#32 ++ 0x0000#16 ++ 0x0000#16 ++ 0x0000#16 ++ 0xFFFF#16 := rfl
  simp only [Statement, Instr.opcode, encode]
  rw [h, assembleWord_and]
  simp
  rfl

theorem setLedAppend (led dr dg db : Nat) : Statement (.setLedAppend led dr dg db) := by
  have h : Opcode.setLedAppend.mask = 0xFF#8 ++ 0xFF#8 ++ 0xFFFF#16 ++ 0x00000000#32 ++ 0x0000#16 ++ 0x0000#16 ++ 0x0000#16 ++ 0xFFFF#16 := rfl
  simp only [Statement, Instr.opcode, encode]
  rw [h, assembleWord_and]
  simp
  rfl

theorem setChannel (f v : Nat) : Statement (.setChannel f v) := by
  have h : Opcode.setChannel.mask = 0xFF#8 ++ 0xFF#8 ++ 0xFFFF#16 ++ 0x00000000#32 ++ 0x0000#16 ++ 0xFFFF#16 ++ 0xFFFF#16 ++ 0xFFFF#16 := rfl
  simp only [Statement, Instr.opcode, encode]
  rw [h, assembleWord_and]
  simp
  rfl

theorem getChannel (led c : Nat) : Statement (.getChannel led c) := by
  have h : Opcode.getChannel.mask = 0xFF#8 ++ 0x00#8 ++ 0xFFFF#16 ++ 0x00000000#32 ++ 0xFFFF#16 ++ 0xFFFF#16 ++ 0xFFFF#16 ++ 0xFFFF#16 := rfl
  simp only [Statement, Instr.opcode, encode]
  rw [h, assembleWord_and]
  simp
  rfl

theorem getLed (chip l : Nat) : Statement (.getLed chip l) := by
  have h : Opcode.getLed.mask = 0xFF#8 ++ 0x00#8 ++ 0xFFFF#16 ++ 0x00000000#32 ++ 0xFFFF#16 ++ 0xFFFF#16 ++ 0xFFFF#16 ++ 0xFFFF#16 := rfl
  simp only [Statement, Instr.opcode, encode]
  rw [h, assembleWord_and]
  simp
  rfl

theorem enforceMaxCurrent : Statement (.enforceMaxCurrent) := by
  have h : Opcode.enforceMaxCurrent.mask = 0xFF#8 ++ 0xFF#8 ++ 0xFFFF#16 ++ 0xFFFFFFFF#32 ++ 0xFFFF#16 ++ 0xFFFF#16 ++ 0xFFFF#16 ++ 0xFFFF#16 := rfl
  simp only [Statement, Instr.opcode, encode]
  rw [h, assembleWord_and]
  simp
  rfl

theorem setPinOrder (led p0 p1 p2 : Nat) : Statement (.setPinOrder led p0 p1 p2) := by
  have h : Opcode.setPinOrder.mask = 0xFF#8 ++ 0xC0#8 ++ 0xFFFF#16 ++ 0x00000000#32 ++ 0xFFFF#16 ++ 0xFFFF#16 ++ 0xFFFF#16 ++ 0xFFFF#16 := rfl
  simp only [Statement, Instr.opcode, encode]
  rw [h, assembleWord_and, aux_and]
  simp
  rfl

theorem setPinOrderAll (p0 p1 p2 : Nat) : Statement (.setPinOrderAll p0 p1 p2) := by
  have h : Opcode.setPinOrderAll.mask = 0xFF#8 ++ 0xC0#8 ++ 0xFFFF#16 ++ 0xFFFFFFFF#32 ++ 0xFFFF#16 ++ 0xFFFF#16 ++ 0xFFFF#16 ++ 0xFFFF#16 := rfl
  simp only [Statement, Instr.opcode, encode]
  rw [h, assembleWord_and, aux_and]
  simp
  rfl

theorem shiftRow (r : Nat) : Statement (.shiftRow r) := by
  have h : Opcode.shiftRow.mask = 0xFF#8 ++ 0xFF#8 ++ 0xFFFF#16 ++ 0x00000000#32 ++ 0xFFFF#16 ++ 0xFFFF#16 ++ 0xFFFF#16 ++ 0xFFFF#16 := rfl
  simp only [Statement, Instr.opcode, encode]
  rw [h, assembleWord_and]
  simp
  rfl

theorem latch (r : Nat) : Statement (.latch r) := by
  have h : Opcode.latch.mask = 0xFF#8 ++ 0xFF#8 ++ 0xFFFF#16 ++ 0x00000000#32 ++ 0xFFFF#16 ++ 0xFFFF#16 ++ 0xFFFF#16 ++ 0xFFFF#16 := rfl
  simp only [Statement, Instr.opcode, encode]
  rw [h, assembleWord_and]
  simp
  rfl

theorem update : Statement (.update) := by
  have h : Opcode.update.mask = 0xFF#8 ++ 0xFF#8 ++ 0xFFFF#16 ++ 0xFFFFFFFF#32 ++ 0xFFFF#16 ++ 0xFFFF#16 ++ 0xFFFF#16 ++ 0xFFFF#16 := rfl
  simp only [Statement, Instr.opcode, encode]
  rw [h, assembleWord_and]
  simp
  rfl

end Sys2Proof.Laws.EncodeMatchesRow
end

