-- ==== Sys2Proof/Laws/Step.lean ====
section
/-! SUPPORT. What a step can do, said once (60_exceptions.md R206, 70_reset_and_hazards.md R230, R232), and how the monitor of the
outputs reads a record in two parts. -/

namespace Sys2Proof.Machine

/-- A wait that answers a next state is ended by reset. -/
theorem waitForReset_next {f : Fault} {s t : State} (h : waitForReset f s = .next t) :
    s.resetAfter.isSome = true ∧ t = s.assertReset := by
  unfold waitForReset at h
  split at h
  · exact ⟨‹_›, by simpa using h.symm⟩
  · simp at h

/-- Everything a step that answers a next state can have done: released reset, asserted it, handed over a response, or run the oldest
offered word. -/
theorem step_cases {s t : State} (h : step s = .next t) :
    (s.inReset = true ∧ legalConfig s.cfgInputs = true ∧ t = s.released) ∨
      (s.inReset = false ∧ s.resetAfter.isSome = true ∧ t = s.assertReset) ∨
      (s.inReset = false ∧ s.resetAfter ≠ some 0 ∧ s.phase = .idle ∧ (∃ w, s.rspPort = some w) ∧ s.hostReady = true ∧
        t = s.responseTaken) ∨
      ∃ w rest, s.inReset = false ∧ s.resetAfter ≠ some 0 ∧ s.phase = .idle ∧ s.rspPort = none ∧ s.offered = w :: rest ∧
        runWord w (s.commandAccepted rest) = .next t := by
  unfold step advance at h
  by_cases hr : s.inReset = true
  · rw [if_pos hr] at h
    unfold releaseReset at h
    split at h
    · exact .inl ⟨hr, ‹_›, by simpa using h.symm⟩
    · simp at h
  · have hr' : s.inReset = false := by simpa using hr
    rw [if_neg hr] at h
    by_cases hd : s.resetDue = true
    · rw [if_pos hd] at h
      exact .inr (.inl ⟨hr', by simp [State.resetDue_iff.mp hd], by simpa using h.symm⟩)
    · rw [if_neg hd] at h
      have hd' : s.resetAfter ≠ some 0 := fun hc => hd (State.resetDue_iff.mpr hc)
      cases hp : s.phase with
      | shifting => rw [hp] at h; exact .inr (.inl ⟨hr', waitForReset_next h⟩)
      | latching => rw [hp] at h; exact .inr (.inl ⟨hr', waitForReset_next h⟩)
      | idle =>
        rw [hp] at h
        cases hq : s.rspPort with
        | some w =>
          rw [hq] at h
          dsimp only at h
          split at h
          · exact .inr (.inr (.inl ⟨hr', hd', rfl, ⟨w, rfl⟩, ‹_›, by simpa using h.symm⟩))
          · exact .inr (.inl ⟨hr', waitForReset_next h⟩)
        | none =>
          rw [hq] at h
          cases ho : s.offered with
          | nil => rw [ho] at h; exact .inr (.inl ⟨hr', waitForReset_next h⟩)
          | cons w rest => rw [ho] at h; exact .inr (.inr (.inr ⟨w, rest, hr', hd', rfl, rfl, rfl, h⟩))

/-- Every command answers a next state. -/
theorem exec_next (i : Instr) (s : State) : ∃ t, exec i s = .next t := by
  cases i <;> exact ⟨_, rfl⟩

/-- The monitor reads a record in two parts. -/
theorem monitorFrom_append (n : Nat) (m : Option Monitor) (es fs : List Event) :
    monitorFrom n m (es ++ fs) = monitorFrom n (monitorFrom n m es) fs := by
  induction es generalizing m with
  | nil => rfl
  | cons e es ih => exact ih _

/-- After an assertion of reset the monitor starts again, whatever stood before. -/
theorem monitorFrom_reset (n : Nat) (m : Option Monitor) (es : List Event) :
    monitorFrom n m (es ++ [.resetAsserted]) = some Monitor.start := by
  rw [monitorFrom_append]
  simp [monitorFrom]

end Sys2Proof.Machine
end

