-- ==== Sys2Proof/Machine/Assembler.lean ====
section
/-! DEFINITION. The assembler: one command per line, its mnemonic and its operands (30_encoding.md R89), the pseudo-commands (R90) and
the word they encode to (R91). It stands outside the block and no step uses it. -/

namespace Sys2Proof.Machine

/-- Why a line does not assemble (R89). -/
inductive AsmError where
  /-- the mnemonic is none of R89 and R90 -/
  | unknownMnemonic
  /-- an operand is neither a decimal nor a `0x` hex number -/
  | badNumber
  /-- the command does not take this many operands -/
  | wrongOperands
  /-- an operand is too wide for its field, or a slot is above 3 -/
  | operandTooWide
deriving DecidableEq, Repr

/-- The command a mnemonic or a pseudo-command names, from its operands in the order of R89 and R90; none outside where the mnemonic
is unknown, none inside where the operands are not as many as it takes. -/
def commandNamed (m : String) : Option (List Nat → Option Instr) :=
  match m with
  | "SET_ALL" => some fun | [v] => some (.setAll v) | _ => none
  | "SET_ALL_RGB" => some fun | [r, g, b] => some (.setAllRgb r g b) | _ => none
  | "SET_LED_MONO" => some fun | [led, v] => some (.setLedMono led v) | _ => none
  | "SET_LED_RGB" => some fun | [led, r, g, b] => some (.setLedRgb led r g b) | _ => none
  | "SET_LED_APPEND" => some fun | [led, dr, dg, db] => some (.setLedAppend led dr dg db) | _ => none
  | "SET_CHANNEL" => some fun | [f, v] => some (.setChannel f v) | _ => none
  | "GET_CHANNEL" => some fun | [led, c] => some (.getChannel led c) | _ => none
  | "GET_LED" => some fun | [chip, l] => some (.getLed chip l) | _ => none
  | "ENFORCE_MAX_CURRENT" => some fun | [] => some .enforceMaxCurrent | _ => none
  | "SET_PIN_ORDER" => some fun | [led, p0, p1, p2] => some (.setPinOrder led p0 p1 p2) | _ => none
  | "SET_PIN_ORDER_ALL" => some fun | [p0, p1, p2] => some (.setPinOrderAll p0 p1 p2) | _ => none
  | "SHIFT_ROW" => some fun | [r] => some (.shiftRow r) | _ => none
  | "LATCH" => some fun | [r] => some (.latch r) | _ => none
  | "UPDATE" => some fun | [] => some .update | _ => none
  | "SET_LED" => some fun
    | [led, v] => some (.setLedMono led v)
    | [led, r, g, b] => some (.setLedRgb led r g b)
    | _ => none
  | "CLEAR" => some fun | [] => some (.setAll 0) | _ => none
  | "PIN_ORDER_IDENTITY" => some fun | [] => some (.setPinOrderAll 0 1 2) | _ => none
  | _ => none

/-- The value of one digit in a base up to 16, lower and upper case letters alike (log entry 16). -/
def digitValue (base : Nat) (c : Char) : Option Nat :=
  let n := c.toNat
  let v :=
    if 48 ≤ n ∧ n ≤ 57 then n - 48
    else if 97 ≤ n ∧ n ≤ 102 then n - 87
    else if 65 ≤ n ∧ n ≤ 70 then n - 55
    else 16
  if v < base then some v else none

/-- The number that digits spell, most significant first, on top of `acc`. -/
def digitsValue (base : Nat) : List Char → Nat → Option Nat
  | [], acc => some acc
  | c :: cs, acc => (digitValue base c).bind fun v => digitsValue base cs (acc * base + v)

/-- An operand: "in decimal or `0x` hex" (R89). -/
def parseNumber : List Char → Option Nat
  | [] => none
  | '0' :: 'x' :: d :: ds => digitsValue 16 (d :: ds) 0
  | cs => digitsValue 10 cs 0

/-- A piece of a line without the spaces around it (log entry 16). -/
def trimSpaces (cs : List Char) : List Char := ((cs.dropWhile (· == ' ')).reverse.dropWhile (· == ' ')).reverse

/-- The pieces between commas. -/
def splitCommas : List Char → List (List Char)
  | [] => [[]]
  | c :: cs =>
    if c = ',' then [] :: splitCommas cs
    else
      match splitCommas cs with
      | [] => [[c]]
      | w :: ws => (c :: w) :: ws

/-- The operands of a line, none if one of them is not a number. -/
def parseOperands (cs : List Char) : Option (List Nat) :=
  let cs := trimSpaces cs
  if cs = [] then some [] else (splitCommas cs).mapM fun w => parseNumber (trimSpaces w)

/-- The command a line stands for (R89, R90). -/
def parseLine (line : String) : Except AsmError Instr :=
  let cs := trimSpaces line.toList
  let m := String.ofList (cs.takeWhile (· != ' '))
  match commandNamed m with
  | none => .error .unknownMnemonic
  | some build =>
    match parseOperands (cs.dropWhile (· != ' ')) with
    | none => .error .badNumber
    | some ops =>
      match build ops with
      | none => .error .wrongOperands
      | some i => if i.wellFormed then .ok i else .error .operandTooWide

/-- The command word a line assembles to (R89 to R91). -/
def assemble (line : String) : Except AsmError Word := (parseLine line).map encode

end Sys2Proof.Machine
end

