-- ==== Sys2Proof/Tests/Slice0.lean ====
section
/-! SUPPORT. The model's own tests: ill-formed terms refused (30_encoding.md R89), words and vectors of 95_test_vectors.md, and a
concrete state and operands that meet the hypotheses of each statement. Every expected value is the spec's. -/

namespace Sys2Proof.Tests

open Sys2Proof.Machine Sys2Proof.Claims

/-! ### WellFormed refuses an ill-formed term for each check (R89) -/

theorem test_wf_value : (Instr.setAll 65536).wellFormed = false := by decide
theorem test_wf_value_max : (Instr.setAll 65535).wellFormed = true := by decide
theorem test_wf_second_value : (Instr.setAllRgb 0 65536 0).wellFormed = false := by decide
theorem test_wf_index : (Instr.setChannel 4294967296 0).wellFormed = false := by decide
theorem test_wf_index_max : (Instr.shiftRow 4294967295).wellFormed = true := by decide
theorem test_wf_aux : (Instr.getChannel 0 256).wellFormed = false := by decide
theorem test_wf_slot : (Instr.setPinOrder 0 4 1 2).wellFormed = false := by decide
theorem test_wf_last_slot : (Instr.setPinOrderAll 0 1 4).wellFormed = false := by decide

/-! ### Words of every command (95_test_vectors.md 2.1) -/

theorem test_decode_set_all : decode 0x01000000_00000000_0FFF0000_00000000 = .ok (.setAll 4095) := by decide
theorem test_decode_set_all_rgb : decode 0x02000000_00000000_00010002_00030000 = .ok (.setAllRgb 1 2 3) := by decide
theorem test_decode_set_led_mono : decode 0x03000000_00000009_00070000_00000000 = .ok (.setLedMono 9 7) := by decide
theorem test_decode_set_led_rgb : decode 0x04000000_00000000_006400C8_012C0000 = .ok (.setLedRgb 0 100 200 300) := by decide
theorem test_decode_set_led_append : decode 0x05000000_00000000_00C80005_00010000 = .ok (.setLedAppend 0 200 5 1) := by decide
theorem test_decode_set_channel : decode 0x06000000_0000001A_0FFF0000_00000000 = .ok (.setChannel 26 4095) := by decide
theorem test_decode_get_channel : decode 0x07020000_00000001_00000000_00000000 = .ok (.getChannel 1 2) := by decide
theorem test_decode_get_led : decode 0x08070000_00000000_00000000_00000000 = .ok (.getLed 0 7) := by decide
theorem test_decode_enforce : decode 0x09000000_00000000_00000000_00000000 = .ok .enforceMaxCurrent := by decide
theorem test_decode_set_pin_order : decode 0x0A210000_00000000_00000000_00000000 = .ok (.setPinOrder 0 1 0 2) := by decide
theorem test_decode_set_pin_order_all : decode 0x0B060000_00000000_00000000_00000000 = .ok (.setPinOrderAll 2 1 0) := by decide
theorem test_decode_shift_row : decode 0x0C000000_00000001_00000000_00000000 = .ok (.shiftRow 1) := by decide
theorem test_decode_latch : decode 0x0D000000_00000000_00000000_00000000 = .ok (.latch 0) := by decide
theorem test_decode_update : decode 0x0E000000_00000000_00000000_00000000 = .ok .update := by decide

/-! ### Illegal words (95_test_vectors.md 2.2) -/

theorem test_illegal_op_00 : decode 0 = .error .unknownOpcode := by decide
theorem test_illegal_op_0F : decode 0x0F000000_00000000_00000000_00000000 = .error .unknownOpcode := by decide
theorem test_illegal_rsv1 : decode 0x01000000_00000000_0FFF0000_00000001 = .error .mustBeZero := by decide
theorem test_illegal_rsv0 : decode 0x09000001_00000000_00000000_00000000 = .error .mustBeZero := by decide
theorem test_illegal_aux : decode 0x01010000_00000000_00000000_00000000 = .error .mustBeZero := by decide
theorem test_illegal_idx : decode 0x01000000_00000001_00000000_00000000 = .error .mustBeZero := by decide
theorem test_illegal_vb : decode 0x03000000_00000000_00070001_00000000 = .error .mustBeZero := by decide
theorem test_illegal_aux_top : decode 0x0AE40000_00000000_00000000_00000000 = .error .mustBeZero := by decide

/-! ### The assembler (30_encoding.md R89 to R91) -/

theorem test_asm_set_led_rgb : assemble "SET_LED_RGB 0, 100, 200, 0x12C" = .ok 0x04000000_00000000_006400C8_012C0000 := by decide
theorem test_asm_pin_order : assemble "SET_PIN_ORDER_ALL 1, 0, 2" = .ok 0x0B210000_00000000_00000000_00000000 := by decide
theorem test_asm_clear : assemble "CLEAR" = .ok 0x01000000_00000000_00000000_00000000 := by decide
theorem test_asm_identity : assemble "PIN_ORDER_IDENTITY" = .ok 0x0B240000_00000000_00000000_00000000 := by decide
theorem test_asm_set_led : assemble "SET_LED 9, 7" = .ok 0x03000000_00000009_00070000_00000000 := by decide
theorem test_asm_too_wide : assemble "SET_ALL 65536" = .error .operandTooWide := by decide
theorem test_asm_slot : assemble "SET_PIN_ORDER 0, 4, 1, 2" = .error .operandTooWide := by decide

/-! ### One step of each command, on small states (95_test_vectors.md 1, 3) -/

/-- The configuration of 95_test_vectors.md with other sizes. -/
def sized (l n : Nat) : Config :=
  { Config.default with numLatches := BitVec.ofNat 32 l, numTlcOneRow := BitVec.ofNat 32 n }

/-- The same with limiting on. -/
def limitedTo (m : Gray) : Config := { Config.default with limitEn := true, maxAllowed := m }

/-- The build without the latch controller. -/
def noLatch : Config := { Config.default with hasLatchCtrl := false }

/-- A reset block of a configuration with some cells set and some replies coming. -/
def block (c : Config) (gs : Memory) (rs : List Reply) : State := { State.resetWith c with gs := gs, replies := rs }

/-- The state after a step that runs the word `w` first, if it answers a next state. -/
def after (s : State) (w : Nat) : Option State :=
  match step (s.withFetchWord 128 w) with
  | .next t => some t
  | .fault _ => none
  | .refused _ => none

/-- The bytes a record shows, in order. -/
def bytesShown (es : List Event) : List Byte :=
  es.filterMap fun e => match e with
    | .byte b _ => some b
    | _ => none

-- S1
theorem test_set_all : (after (block (sized 1 2) [] []) 0x01000000_00000000_0FFF0000_00000000).map
    (fun t => (t.gs.length, t.gs.all fun e => e.2 == 4095)) = some (48, true) := by decide
-- A2
theorem test_set_all_refused : (after (block Config.default [] []) 0x01000000_00000000_10000000_00000000).map
    (fun t => (t.gs, t.rspPort)) = some ([], some 0x01010000_00000000_00000000_00000000) := by decide
-- A3
theorem test_set_all_rgb : (after (block Config.default [] []) 0x02000000_00000000_00010002_00030000).map
    (fun t => t.gs.take 4) = some [(0, 1), (1, 2), (2, 3), (3, 1)] := by decide
-- B6
theorem test_set_all_rgb_limited : (after (block (limitedTo 1000) [] []) 0x02000000_00000000_0BB8000A_03E80000).map
    (fun t => (t.rspPort, t.gs.take 3)) =
      some (some 0x00020000_00000008_00000000_00000000, [(0, 1000), (1, 10), (2, 1000)]) := by decide
-- A5
theorem test_set_led_mono : (after (block (sized 1 2) [] []) 0x03000000_00000009_00070000_00000000).map
    (fun t => t.gs) = some [(27, 7), (28, 7), (29, 7)] := by decide
-- A7
theorem test_set_led_mono_refused : (after (block (sized 1 2) [] []) 0x03000000_00000010_00010000_00000000).map
    (fun t => (t.gs, t.rspPort)) = some ([], some 0x01030000_00000000_00000000_00000000) := by decide
-- S2 step 1
theorem test_set_led_rgb : (after (block Config.default [] []) 0x04000000_00000000_006400C8_012C0000).map
    (fun t => t.gs) = some [(0, 100), (1, 200), (2, 300)] := by decide
-- B1
theorem test_set_led_rgb_limited : (after (block (limitedTo 1000) [] []) 0x04000000_00000000_01F405DC_0FFF0000).map
    (fun t => (t.gs, t.rspPort)) =
      some ([(0, 500), (1, 1000), (2, 1000)], some 0x00040000_00000002_00000000_00000000) := by decide
-- A8
theorem test_set_led_append : (after (block Config.default [(0, 4000), (2, 4095)] []) 0x05000000_00000000_00C80005_00010000).map
    (fun t => t.gs) = some [(0, 4095), (1, 5), (2, 4095)] := by decide
-- B4
theorem test_set_led_append_limited :
    (after (block (limitedTo 1000) [(0, 1000), (1, 1000), (2, 1000)] []) 0x05000000_00000000_00010000_00000000).map
      (fun t => (t.gs, t.rspPort)) =
        some ([(0, 1000), (1, 1000), (2, 1000)], some 0x00050000_00000001_00000000_00000000) := by decide
-- A10
theorem test_set_channel : (after (block (sized 1 2) [] []) 0x06000000_0000001A_0FFF0000_00000000).map
    (fun t => t.gs) = some [(26, 4095)] := by decide
-- A12
theorem test_set_channel_refused : (after (block Config.default [] []) 0x06000000_00000018_00090000_00000000).map
    (fun t => (t.gs, t.rspPort)) = some ([], some 0x01060000_00000000_00000000_00000000) := by decide
-- A11 step 2
theorem test_get_channel : (after (block Config.default [(23, 9)] []) 0x07020000_00000007_00000000_00000000).map
    (fun t => t.rspPort) = some (some 0x00070000_00000000_00090000_00000000) := by decide
-- A13
theorem test_get_channel_refused : (after (block Config.default [] []) 0x07030000_00000000_00000000_00000000).map
    (fun t => t.rspPort) = some (some 0x01070000_00000000_00000000_00000000) := by decide
-- S2 step 2
theorem test_get_led : (after (block Config.default [(0, 100), (1, 200), (2, 300)] []) 0x08000000_00000000_00000000_00000000).map
    (fun t => t.rspPort) = some (some 0x00080000_00000000_006400C8_012C0000) := by decide
-- A14
theorem test_get_led_refused : (after (block (sized 1 2) [] []) 0x08080000_00000000_00000000_00000000).map
    (fun t => t.rspPort) = some (some 0x01080000_00000000_00000000_00000000) := by decide
-- B11
theorem test_enforce_off : (after (block Config.default [(7, 3000)] []) 0x09000000_00000000_00000000_00000000).map
    (fun t => (t.gs, t.rspPort)) = some ([(7, 3000)], some 0x00090000_00000000_00000000_00000000) := by decide
-- R142 on a cell above the limit
theorem test_enforce_on : (after (block (limitedTo 1000) [(7, 3000), (9, 1000)] []) 0x09000000_00000000_00000000_00000000).map
    (fun t => (t.gs, t.rspPort)) =
      some ([(7, 1000), (9, 1000)], some 0x00090000_00000001_00000000_00000000) := by decide
-- the example of R124
theorem test_set_pin_order : (after (block Config.default [] []) 0x0A210000_00000000_00000000_00000000).map
    (fun t => t.po) = some [(0, .p102)] := by decide
-- A16
theorem test_set_pin_order_refused : (after (block Config.default [] []) 0x0A070000_00000000_00000000_00000000).map
    (fun t => (t.po, t.rspPort)) = some ([], some 0x010A0000_00000000_00000000_00000000) := by decide
-- P2 step 1
theorem test_set_pin_order_all : (after (block Config.default [] []) 0x0B210000_00000000_00000000_00000000).map
    (fun t => (t.po.length, t.po.all fun e => e.2 == .p102)) = some (8, true) := by decide
-- A20
theorem test_set_pin_order_all_refused : (after (block Config.default [] []) 0x0B2A0000_00000000_00000000_00000000).map
    (fun t => (t.po, t.rspPort)) = some ([], some 0x010B0000_00000000_00000000_00000000) := by decide

set_option maxRecDepth 8000 in
-- K7: LEDs in descending order
theorem test_row_bytes_led_descending :
    rowBytes { Config.default with ledOrder := .desc } [(0, 100), (1, 200), (2, 300)] [] 0 =
      List.replicate 32 0 ++ [0x64, 0x0C, 0x81, 0x2C] := by decide

set_option maxRecDepth 8000 in
-- K9: chips in descending order
theorem test_row_bytes_chip_descending :
    rowBytes { sized 1 2 with chipOrder := .desc } [(24, 4095)] [] 0 = [0xFF, 0xF0] ++ List.replicate 70 0 := by decide

set_option maxRecDepth 8000 in
-- K4: slots G, B, R, a 3-cycle
theorem test_shift_row : (after { block Config.default [(0, 100), (1, 200), (2, 300)] (oks 36) with po := [(0, .p201)] }
    0x0C000000_00000000_00000000_00000000).map (fun t => (bytesShown t.log, t.pendingRow)) =
      some ([0x0C, 0x81, 0x2C, 0x06, 0x40] ++ List.replicate 31 0, some 0) := by decide

-- P3 step 2's row, as a SHIFT_ROW whose byte 3 fails; T4: a row pending before it is not pending after it
theorem test_shift_row_fails : (after { block Config.default [(0, 4095)] (oks 3 ++ [.answer .fail]) with pendingRow := some 0 }
    0x0C000000_00000000_00000000_00000000).map (fun t => (bytesShown t.log, t.pendingRow, t.phase, t.rspPort)) =
      some ([0xFF, 0xF0, 0x00, 0x00], none, .idle, some 0x020C0000_00000000_00000000_00000000) := by decide

-- P2 step 6
theorem test_latch : (after { block Config.default [] [] with pendingRow := some 0 } 0x0D000000_00000000_00000000_00000000).map
    (fun t => (t.trace, t.pendingRow)) =
      some ([.latchPulse 0, .resp 0x000D0000_00000000_00000000_00000000], none) := by decide
-- U1
theorem test_latch_not_ready : (after (block Config.default [] []) 0x0D000000_00000000_00000000_00000000).map
    (fun t => t.trace) = some [.resp 0x040D0000_00000000_00000000_00000000] := by decide

set_option maxRecDepth 8000 in
-- U7: the byte at attempt index 39 fails
theorem test_update_fails : (after (block (sized 2 1) [(24, 4095)] (oks 39 ++ [.answer .fail]))
    0x0E000000_00000000_00000000_00000000).map (fun t => (t.trace, t.pendingRow)) =
      some (bytesOk (List.replicate 36 0) ++ [.latchPulse 0] ++ bytesOk [0xFF, 0xF0, 0x00] ++
        [.byte 0 .fail, .resp 0x020E0000_00000000_00000000_00000000], none) := by decide

set_option maxRecDepth 8000 in
-- U6: rows in descending order, told apart by a cell of row 1
theorem test_update_descending : (after (block { sized 2 1 with rowOrder := .desc } [(24, 4095)] (oks 72))
    0x0E000000_00000000_00000000_00000000).map (fun t => t.trace) =
      some (bytesOk ([0xFF, 0xF0] ++ List.replicate 34 0) ++ [.latchPulse 1] ++ bytesOk (List.replicate 36 0) ++
        [.latchPulse 0, .resp 0x000E0000_00000000_00000000_00000000]) := by decide

-- P4 step 2
theorem test_update_without_controller : (after (block noLatch [] []) 0x0E000000_00000000_00000000_00000000).map
    (fun t => t.trace) = some [.resp 0x030E0000_00000000_00000000_00000000] := by decide

-- the last word of 95_test_vectors.md 2.2
theorem test_decode_error_first : (after (block Config.default [] []) 0x04000000_00000008_10000000_00000001).map
    (fun t => t.rspPort) = some (some 0x03040000_00000000_00000000_00000000) := by decide

-- Z2: reset asserted during UPDATE, after 10 bytes
theorem test_reset_during_update :
    (match exec .update { block Config.default [(0, 5)] (oks 36) with resetAfter := some 10 } with
      | .next t => (t.trace, t.inReset, t.rspPort, t.latch)
      | _ => ([], false, none, [])) = (bytesOk ([0x00, 0x50] ++ List.replicate 8 0), true, none, []) := by decide

-- Z3
theorem test_illegal_configuration_refused :
    (match step { State.reset with inReset := true, cfgInputs := sized 0 1 } with
      | .refused .illegalConfiguration => true
      | _ => false) = true := by decide

/-! ### What meets the hypotheses of each statement, at the boundaries of its clauses -/

/-- A reset block of two rows of one chip, with some cells set, idle and ready. -/
def two : State := block (sized 2 1) [(0, 4000), (24, 1), (47, 4095)] []

theorem witness_DecodeEncodeRoundTrip : (Instr.setLedRgb 4294967295 65535 0 4096).wellFormed = true := by decide

theorem witness_EncodeDecodeRoundTrip : decode 0x0A3F0000_FFFFFFFF_00000000_00000000 = .ok (.setPinOrder 4294967295 3 3 3) := by
  decide

theorem witness_DecodesExactlyItsRow_left :
    ∃ i, decode 0x0B3F0000_00000000_00000000_00000000 = .ok i ∧ i.opcode = .setPinOrderAll :=
  ⟨.setPinOrderAll 3 3 3, by decide, rfl⟩

theorem witness_IllegalWordIsAnswered_opcode :
    let s : State := { two with offered := [0x0F000000_00000000_00000000_00000000] }
    Ready s ∧ NoReset s ∧ IllegalWord s.cfg 0x0F000000_00000000_00000000_00000000 :=
  ⟨⟨rfl, rfl, rfl, rfl⟩, rfl, .inl (.inr (by decide))⟩

theorem witness_IllegalWordIsAnswered_bit :
    let s : State := { two with offered := [0x0B400000_00000000_00000000_00000000] }
    Ready s ∧ NoReset s ∧ IllegalWord s.cfg 0x0B400000_00000000_00000000_00000000 :=
  ⟨⟨rfl, rfl, rfl, rfl⟩, rfl, .inr (.inl ⟨.setPinOrderAll, by decide, 118, by decide, by decide, by decide⟩)⟩

theorem witness_IllegalWordIsAnswered_build :
    let s : State := { block noLatch [] [] with offered := [0x0E000000_00000000_00000000_00000000] }
    Ready s ∧ NoReset s ∧ IllegalWord s.cfg 0x0E000000_00000000_00000000_00000000 :=
  ⟨⟨rfl, rfl, rfl, rfl⟩, rfl, .inr (.inr ⟨rfl, .inr (by decide)⟩)⟩

theorem witness_PermutationCodes : PinOrder.ofCode? 0x12 = some .p201 := by decide

theorem witness_EveryCommandAnswersOnce :
    NoReset { two with replies := oks 72 } ∧ Reply.never ∉ oks 72 ∧ ∃ t, exec .update { two with replies := oks 72 } = .next t :=
  ⟨rfl, by decide, _, rfl⟩

theorem witness_WalkVisitsEachSlotOnce : (1 : Nat) < (sized 2 2).numTlcOneRow.toNat ∧ (7 : Nat) < 8 := by decide

theorem witness_TraversalFollowsTheOrderParameters :
    (1 : Nat) < (sized 2 2).numLatches.toNat ∧ (1 : Nat) < (sized 2 2).numTlcOneRow.toNat := by decide

theorem witness_LatchMapPartitionsTheChips : (1 : Nat) < (sized 2 1).numLatches.toNat * (sized 2 1).numTlcOneRow.toNat := by decide

theorem witness_SwappingSlotsSwapsFields :
    pinOrderOf (sized 2 1) [] 3 = .p012 ∧ pinOrderOf (sized 2 1) [(3, .p102)] 3 = .p102 ∧
      (∀ q, q ≠ 3 → pinOrderOf (sized 2 1) [(3, .p102)] q = pinOrderOf (sized 2 1) [] q) ∧
      PinOrder.p102.slot .red = PinOrder.p012.slot .green ∧ PinOrder.p102.slot .green = PinOrder.p012.slot .red ∧
      ∀ x, x ≠ .red → x ≠ .green → PinOrder.p102.slot x = PinOrder.p012.slot x := by
  refine ⟨by decide, by decide, fun q hq => ?_, by decide, by decide, fun x h1 h2 => ?_⟩
  · simp [pinOrderOf, tableRead, hq]
  · cases x <;> first | contradiction | rfl

theorem witness_SaturatingAddIsExact : (4095 : Nat) ≤ 4095 ∧ (satAdd12 4095 4095).toNat = 4095 := by decide

/-- The statements of the setters, the getters, ENFORCE_MAX_CURRENT and the round trip, on operands in range at their last values. -/
theorem witness_store_in_range :
    NoReset two ∧ Memory.wf two.gs = true ∧ (15 : Nat) < 8 * chips two.cfg ∧ (47 : Nat) < 24 * chips two.cfg ∧
      (1 : Nat) < chips two.cfg ∧ (7 : Nat) < 8 ∧ (2 : Nat) < 3 ∧ (4095 : Nat) ≤ 4095 := by decide

/-- The same statements, on operands just out of range. -/
theorem witness_store_out_of_range :
    NoReset two ∧ Memory.wf two.gs = true ∧ (16 : Nat) ≥ 8 * chips two.cfg ∧ (48 : Nat) ≥ 24 * chips two.cfg ∧
      (2 : Nat) ≥ chips two.cfg ∧ (8 : Nat) ≥ 8 ∧ (3 : Nat) ≥ 3 ∧ (4096 : Nat) > 4095 := by decide

theorem witness_SetPinOrder :
    NoReset two ∧ tableWf (initialPinOrder two.cfg) two.po = true ∧ 1 < 4 ∧ 2 < 4 ∧ 0 < 4 ∧ (15 : Nat) < 8 * chips two.cfg ∧
      [1, 2, 0].Perm [0, 1, 2] := by decide

theorem witness_SetPinOrder_refused :
    NoReset two ∧ tableWf (initialPinOrder two.cfg) two.po = true ∧ 0 < 4 ∧ 3 < 4 ∧ 2 < 4 ∧ ¬ [0, 3, 2].Perm [0, 1, 2] := by decide

theorem witness_SettersAndGettersIgnorePinOrder :
    setterOrGetter (.getLed 0 0) = true ∧ ∃ t, exec (.getLed 0 0) two = .next t := ⟨rfl, _, rfl⟩

theorem witness_StoreCommandsLeaveTheSequencerAlone : storeFamily (.setPinOrder 0 0 1 2) = true ∧ NoReset two := by decide

theorem witness_OutOfRangeChangesNothing :
    NoReset two ∧ (needsLatchCtrl (.latch 2) = true → two.cfg.hasLatchCtrl = true) ∧ outOfRange (chips two.cfg) (rows two.cfg) (.latch 2) :=
  ⟨rfl, fun _ => rfl, by simp [outOfRange, rows, two, block, State.resetWith, sized]⟩

theorem witness_OutOfRangeOnlyByTheseChecks :
    NoReset two ∧ two.rspPort = none ∧
      ∃ t, exec (.setAll 4096) two = .next t ∧ t.rspPort = some (responseWord 0x01 .outOfRange 0 0 0 0) :=
  ⟨rfl, rfl, _, rfl, by decide⟩

theorem witness_NoLatchController :
    NoReset (block noLatch [] []) ∧ (block noLatch [] []).cfg.hasLatchCtrl = false ∧ needsLatchCtrl .update = true := by decide

theorem witness_EnforceClampsEveryCell_invariant :
    NoReset (block (limitedTo 1000) [(7, 1000)] []) ∧ (block (limitedTo 1000) [(7, 1000)] []).Inv := by
  refine ⟨rfl, ?_⟩
  unfold State.Inv
  decide

theorem witness_StepKeepsCellsWithinLimit :
    withinLimit (block (limitedTo 1000) [(7, 1000)] []) = true ∧
      ∃ t, step ((block (limitedTo 1000) [(7, 1000)] []).withFetchWord 128 0x01000000_00000000_0FFF0000_00000000) = .next t :=
  ⟨by decide, _, rfl⟩

theorem witness_PushEmitsTheOldestBits_empty :
    let s : State := { two with replies := oks 1 }
    NoReset s ∧ s.accum = ⟨0, 0⟩ ∧ s.replies = .answer .ok :: [] := by decide

theorem witness_PushEmitsTheOldestBits_held :
    let s : State := { two with accum := ⟨0x9, 4⟩, replies := oks 2 }
    NoReset s ∧ s.accum = ⟨(0x9#4).setWidth 19, 4⟩ ∧ s.replies = .answer .ok :: .answer .ok :: [] := by decide

theorem witness_FlushPadsAfterTheData_none : two.accum.cnt = 0 := by decide

theorem witness_FlushPadsAfterTheData :
    let s : State := { two with accum := ⟨0x49, 7⟩, replies := oks 1 }
    0 < 7 ∧ 7 < 8 ∧ NoReset s ∧ s.accum = ⟨(0x49#7).setWidth 19, 7⟩ ∧ s.replies = .answer .ok :: [] := by decide

theorem witness_ShiftRowEmitsRowBytes :
    let s : State := { two with replies := oks 36 }
    NoReset s ∧ 1 < rows s.cfg ∧ s.replies = oks (rowLen s) ++ [] := by decide

theorem witness_ShiftRowStopsAtTheFailedByte :
    let s : State := { two with replies := oks 35 ++ [.answer .fail] }
    NoReset s ∧ 1 < rows s.cfg ∧ 35 < rowLen s ∧ s.replies = oks 35 ++ .answer .fail :: [] := by decide

theorem witness_ShiftRowEndsUnderAnyAnswers : NoReset two ∧ 1 < rows two.cfg ∧ Reply.never ∉ two.replies := by decide

theorem witness_LatchPulsesOnlyThePendingRow_pending :
    let s : State := { two with pendingRow := some 1 }
    NoReset s ∧ s.cfg.hasLatchCtrl = true ∧ 1 < rows s.cfg ∧ s.pendingRow = some 1 ∧ s.latch = [] := by decide

theorem witness_LatchPulsesOnlyThePendingRow_other :
    let s : State := { two with pendingRow := some 1 }
    NoReset s ∧ s.cfg.hasLatchCtrl = true ∧ 0 < rows s.cfg ∧ s.pendingRow ≠ some 0 := by decide

theorem witness_LatchPulsesOnlyThePendingRow_range :
    NoReset two ∧ two.cfg.hasLatchCtrl = true ∧ (2 : Nat) ≥ rows two.cfg := by decide

theorem witness_LatchPulsesOnlyThePendingRow_illegal :
    NoReset (block noLatch [] []) ∧ (block noLatch [] []).cfg.hasLatchCtrl = false := by decide

theorem witness_Update :
    let s : State := { two with replies := oks 72 }
    NoReset s ∧ s.cfg.hasLatchCtrl = true ∧ 0 < rows s.cfg ∧ s.phase = .idle ∧ s.latch = [] ∧
      s.replies = oks (rows s.cfg * rowLen s) ++ [] ∧ ∃ t, exec .update s = .next t :=
  ⟨rfl, rfl, by decide, rfl, rfl, by decide, _, rfl⟩

theorem witness_UpdateStopsAtTheFailedByte :
    let s : State := { two with replies := oks 71 ++ [.answer .fail] }
    NoReset s ∧ s.cfg.hasLatchCtrl = true ∧ s.phase = .idle ∧ s.latch = [] ∧ rowSeq s.cfg = [0] ++ 1 :: [] ∧ 35 < rowLen s ∧
      s.replies = oks ([0].length * rowLen s + 35) ++ .answer .fail :: [] := by decide

theorem witness_UpdateOfOneRowIsShiftThenLatch :
    let s := block Config.default [] (oks 36)
    NoReset s ∧ s.cfg.hasLatchCtrl = true ∧ rows s.cfg = 1 ∧ s.phase = .idle ∧ s.latch = [] ∧
      s.replies = oks (rowLen s) ++ [] := by decide

theorem reset_orderKept : State.reset.OrderKept :=
  ⟨Monitor.start, by decide, by decide, rfl, by simp [State.reset, State.resetWith, Monitor.start]⟩

theorem witness_StepKeepsTheOrderOfOutputs :
    State.reset.OrderKept ∧ ∃ t, step (State.reset.withFetchWord 128 0x0E000000_00000000_00000000_00000000) = .next t :=
  ⟨reset_orderKept, _, rfl⟩

/-- A step that reset cuts short after two bytes: the entries before the assertion are the shift's. -/
theorem witness_StepKeepsTheOrderOfOutputs_reset :
    let s : State := { State.reset with
      offered := [0x0E000000_00000000_00000000_00000000], replies := oks 2, resetAfter := some 3 }
    s.OrderKept ∧ (match step s with
      | .next t => some (beforeReset t.log, t.inReset)
      | _ => none) = some (.phase .idle .shifting 0 :: bytesOk [0, 0], true) :=
  ⟨reset_orderKept, by decide⟩

theorem witness_StepRunsTheDecodedCommand :
    let s : State := { two with offered := [0x0C000000_00000001_00000000_00000000] }
    Ready s ∧ s.offered = 0x0C000000_00000001_00000000_00000000 :: [] ∧
      decode 0x0C000000_00000001_00000000_00000000 = .ok (.shiftRow 1) := ⟨⟨rfl, rfl, rfl, rfl⟩, rfl, by decide⟩

theorem witness_OfferedWordsAreHeldInOrder :
    ∃ t, step { two with rspPort := some 0, offered := [0] } = .next t := ⟨_, rfl⟩

theorem witness_ResponseWaitsForTheHost :
    let s : State := { two with rspPort := some 7 }
    (s.inReset = false ∧ NoReset s ∧ s.phase = .idle ∧ s.rspPort = some 7 ∧ s.hostReady = true) ∧
      ({ s with hostReady := false } : State).hostReady = false := by decide

theorem witness_UnansweredByteHangs :
    let s : State := { two with replies := oks 35 ++ [.never] }
    NoReset s ∧ s.inReset = false ∧ 1 < rows s.cfg ∧ 35 < rowLen s ∧ s.replies = oks 35 ++ .never :: [] := by decide

theorem witness_UnansweredByteHangs_update :
    let s : State := { two with replies := oks 71 ++ [.never] }
    NoReset s ∧ s.inReset = false ∧ s.cfg.hasLatchCtrl = true ∧ rowSeq s.cfg = [0] ++ 1 :: [] ∧ 35 < rowLen s ∧
      s.replies = oks ([0].length * rowLen s + 35) ++ .never :: [] := by decide

theorem witness_ResetAbortsAnyCommand : ({ two with resetAfter := some 0 } : State).resetAfter = some 0 := rfl

theorem witness_ResetAfterSomeBytesCutsTheRow :
    let s : State := { two with replies := oks 36, resetAfter := some 36 }
    s.resetAfter = some 36 ∧ 36 ≤ rowLen s ∧ 1 < rows s.cfg ∧ s.replies = oks 36 ++ [] := by decide

/-- UPDATE with row 0 done and row 1's line high. -/
theorem witness_ResetAfterSomeBytesCutsTheRow_update :
    let s : State := { two with replies := oks 72, resetAfter := some 75 }
    s.cfg.hasLatchCtrl = true ∧ rowSeq s.cfg = [0] ++ 1 :: [] ∧ 37 ≤ rowLen s + 1 ∧
      s.resetAfter = some ([0].length * (rowLen s + 2) + 37) ∧
      s.replies = oks ([0].length * rowLen s + min 37 (rowLen s)) ++ [] := by decide

/-- UPDATE with every row done and the response to come. -/
theorem witness_ResetAfterSomeBytesCutsTheRow_response :
    let s : State := { two with replies := oks 72, resetAfter := some 76 }
    s.cfg.hasLatchCtrl = true ∧ s.resetAfter = some (rows s.cfg * (rowLen s + 2)) ∧
      s.replies = oks (rows s.cfg * rowLen s) ++ [] := by decide

theorem witness_ResetInsidePulseCutsItShort :
    let s : State := { two with resetAfter := some 1, pendingRow := some 1 }
    s.resetAfter = some 1 ∧ s.cfg.hasLatchCtrl = true ∧ 1 < rows s.cfg ∧ s.pendingRow = some 1 ∧ s.latch = [] := by decide

theorem witness_ReleaseGivesTheResetState_legal :
    let s : State := { two with inReset := true, cfgInputs := limitedTo 0 }
    s.inReset = true ∧ legalConfig s.cfgInputs = true := by decide

theorem witness_ReleaseGivesTheResetState_illegal :
    let s : State := { two with inReset := true, cfgInputs := sized 0 1 }
    s.inReset = true ∧ legalConfig s.cfgInputs = false := by decide

theorem witness_ReleaseLeavesTheBlockReady :
    ({ two with inReset := true } : State).inReset = true ∧ ∃ t, step { two with inReset := true } = .next t := ⟨rfl, _, rfl⟩

theorem witness_ConfigurationIsConstant :
    (two.inReset = false ∧ ∃ t, step (two.withFetchWord 128 0x01000000_00000000_0FFF0000_00000000) = .next t) ∧
      ∃ t, step { two with inReset := true } = .next t := ⟨⟨rfl, _, rfl⟩, _, rfl⟩

theorem witness_StepKeepsTheInvariant :
    two.Inv ∧ ∃ t, step (two.withFetchWord 128 0x04000000_00000000_006400C8_012C0000) = .next t := by
  refine ⟨?_, _, rfl⟩
  unfold State.Inv
  decide

theorem witness_ResetMeetsTheInvariants : legalConfig Config.default = true ∧ legalConfig (limitedTo 0) = true := by decide

end Sys2Proof.Tests
end

/-! SUPPORT. Proofs of the statements of 10_state.md: the latch map, the legal configurations, reset and its release, and the invariant
of the state between steps. The invariant is proved in two halves: what a command does to the data (`DataStep`), and where it leaves the
sequencer and the latch lines (`ControlSound`). -/

namespace Sys2Proof.Machine

/-! ### The latch map (10_state.md R37) -/

theorem mem_latchMap {c : Config} {r ch : Nat} :
    ch ∈ latchMap c r ↔ r * chipsPerRow c ≤ ch ∧ ch < r * chipsPerRow c + chipsPerRow c := by
  simp only [latchMap, List.mem_map, List.mem_range]
  constructor
  · rintro ⟨k, hk, rfl⟩
    omega
  · rintro ⟨hlo, hhi⟩
    exact ⟨ch - r * chipsPerRow c, by omega, by omega⟩

/-- With at least one chip in a row, the row of a chip is its quotient by the chips of a row. -/
theorem mem_latchMap_iff_div {c : Config} (hN : 0 < chipsPerRow c) {r ch : Nat} :
    ch ∈ latchMap c r ↔ r = ch / chipsPerRow c := by
  rw [mem_latchMap, eq_comm, Nat.div_eq_iff hN]
  omega

/-! ### The legal configurations (10_state.md R35) -/

/-- The six codes of 30_encoding.md R86 are the codes of the pin-order entries. -/
theorem ofCode?_isSome_iff : ∀ code : BitVec 6, (PinOrder.ofCode? code).isSome = true ↔
    code ∈ [0x24#6, 0x18#6, 0x21#6, 0x09#6, 0x12#6, 0x06#6] := by
  decide

theorem legalConfig_iff {c : Config} : legalConfig c = true ↔
    1 ≤ rows c ∧ 1 ≤ chipsPerRow c ∧ totalChannels c ≤ 2 ^ 32 - 1 ∧ (PinOrder.ofCode? c.pinOrderInit).isSome = true ∧
      0 < c.serialClkHz.toNat ∧ 0 < c.latchPulseMin.toNat := by
  simp only [legalConfig, Bool.and_eq_true, decide_eq_true_eq, and_assoc]

/-- Under a legal configuration the initial pin order is the one its code stands for (10_state.md R45). -/
theorem some_initialPinOrder {c : Config} (h : legalConfig c = true) :
    some (initialPinOrder c) = PinOrder.ofCode? c.pinOrderInit := by
  obtain ⟨-, -, -, hcode, -, -⟩ := legalConfig_iff.mp h
  obtain ⟨o, ho⟩ := Option.isSome_iff_exists.mp hcode
  simp [initialPinOrder, ho]

/-! ### Reset (10_state.md R45, 70_reset_and_hazards.md R230) -/

/-- Asserting reset adds nothing that an observer sees. -/
theorem assertReset_trace (s : State) : s.assertReset.trace = s.trace := by
  have hlines : (s.latch.map fun e => Event.line e.1 false).filter Event.observable = [] := by
    simp [Event.observable]
  simp [State.trace, hlines, Event.observable]

theorem step_of_inReset {s : State} (h : s.inReset = true) : step s = releaseReset s := by
  simp [step, advance, h]

theorem releaseReset_legal {s : State} (h : legalConfig s.cfgInputs = true) : releaseReset s = .next s.released := by
  simp [releaseReset, h]

theorem releaseReset_illegal {s : State} (h : legalConfig s.cfgInputs = false) :
    releaseReset s = .refused .illegalConfiguration := by
  simp [releaseReset, h]

/-! ### The two halves of the invariant -/

/-- The half of the invariant about the registers that outlive a command: configuration, store, pin orders and pending row. -/
structure DataSound (s : State) : Prop where
  legal : legalConfig s.cfg = true
  store : storeSound s = true
  pins : pinTableSound s = true
  limit : withinLimit s = true
  pending : pendingSound s = true

/-- The half of the invariant about the sequencer and the latch lines. -/
structure ControlSound (s : State) : Prop where
  sequencer : sequencerSound s = true
  lines : linesLow s = true

theorem inv_iff {s : State} : s.Inv ↔ DataSound s ∧ ControlSound s := by
  constructor
  · rintro ⟨hlegal, hstore, hpins, hlimit, hpending, hseq, hlines⟩
    exact ⟨⟨hlegal, hstore, hpins, hlimit, hpending⟩, ⟨hseq, hlines⟩⟩
  · rintro ⟨⟨hlegal, hstore, hpins, hlimit, hpending⟩, ⟨hseq, hlines⟩⟩
    exact ⟨hlegal, hstore, hpins, hlimit, hpending, hseq, hlines⟩

theorem resetWith_inv {c : Config} (h : legalConfig c = true) : (State.resetWith c).Inv :=
  inv_iff.mpr ⟨⟨h, rfl, rfl, rfl, rfl⟩, ⟨rfl, rfl⟩⟩

theorem released_inv {s : State} (h : legalConfig s.cfgInputs = true) : s.released.Inv :=
  resetWith_inv h

theorem resetWith_orderKept (c : Config) : (State.resetWith c).OrderKept :=
  ⟨Monitor.start, rfl, rfl, rfl, by simp [State.resetWith, Monitor.start]⟩

/-- While reset is asserted only the latch lines are bound. -/
theorem controlSound_assertReset (s : State) : ControlSound s.assertReset :=
  ⟨by simp [sequencerSound], by simp [linesLow]⟩

/-- A property of the state that a meaning answers. -/
def Ensures (P : State → Prop) : Result → Prop
  | .next t => P t
  | .fault _ => True
  | .refused _ => True

/-! ### What a command does to the data -/

/-- From `s` to `t` the configuration stays and sound data stays sound. -/
structure DataStep (s t : State) : Prop where
  cfg : t.cfg = s.cfg
  sound : DataSound s → DataSound t

theorem DataStep.trans {s t u : State} (h1 : DataStep s t) (h2 : DataStep t u) : DataStep s u :=
  ⟨h2.cfg.trans h1.cfg, fun h => h2.sound (h1.sound h)⟩

/-- The data is the configuration, the store, the pin orders and the pending row. -/
theorem DataStep.of_eq {s t : State} (hcfg : t.cfg = s.cfg) (hgs : t.gs = s.gs) (hpo : t.po = s.po)
    (hrow : t.pendingRow = s.pendingRow) : DataStep s t where
  cfg := hcfg
  sound h :=
    { legal := by rw [hcfg]; exact h.legal
      store := by simpa only [storeSound, hcfg, hgs] using h.store
      pins := by simpa only [pinTableSound, hcfg, hpo] using h.pins
      limit := by simpa only [withinLimit, hcfg, hgs] using h.limit
      pending := by simpa only [pendingSound, hcfg, hrow] using h.pending }

theorem KeepsData.dataStep {s t : State} (h : KeepsData s t) : DataStep s t := by
  obtain ⟨hcfg, hgs, hpo, hrow, -⟩ := h
  exact .of_eq hcfg hgs hpo hrow

theorem dataStep_assertReset (s : State) : DataStep s s.assertReset := .of_eq rfl rfl rfl rfl

theorem dataStep_enterPhase (s : State) (q : Phase) (r : Nat) : DataStep s (s.enterPhase q r) := .of_eq rfl rfl rfl rfl

theorem dataStep_respond (op : BitVec 8) (st : Status) (n : Nat) (d0 d1 d2 : Gray) (s : State) :
    DataStep s (respond op st n d0 d1 d2 s) := .of_eq (by simp) (by simp) (by simp) (by simp)

theorem dataStep_raise (op : BitVec 8) (e : Status) (s : State) : DataStep s (raise op e s) := dataStep_respond ..

theorem dataStep_noPending (s : State) : DataStep s { s with pendingRow := none } where
  cfg := rfl
  sound h := ⟨h.legal, h.store, h.pins, h.limit, rfl⟩

theorem dataStep_pending {s : State} {r : Nat} (hr : rowInRange s.cfg r = true) :
    DataStep s { s with pendingRow := some r } where
  cfg := rfl
  sound h := ⟨h.legal, h.store, h.pins, h.limit, hr⟩

/-! #### The store -/

/-- Committing limited candidates within the store keeps it canonical, within the chain and within the limit
(41_current_limiter.md R148). -/
theorem dataStep_writeLimited {s : State} {cand : List (Nat × Gray)} (hcand : ∀ e ∈ cand, e.1 < totalChannels s.cfg) :
    DataStep s { s with gs := Memory.writeAll s.gs (limitPass s.cfg cand).1 } where
  cfg := rfl
  sound h := by
    have hlimited : ∀ e ∈ (limitPass s.cfg cand).1, ∃ x ∈ cand, (x.1, limited s.cfg x.2) = e := fun e he =>
      List.mem_map.mp he
    refine { h with store := ?_, limit := ?_ }
    · have hkeys : ∀ e ∈ (limitPass s.cfg cand).1, e.1 < totalChannels s.cfg := by
        intro e he
        obtain ⟨x, hx, rfl⟩ := hlimited e he
        exact hcand x hx
      have hstore := h.store
      simp only [storeSound, Bool.and_eq_true] at hstore ⊢
      exact storeSound_writeAll hstore hkeys
    · have hlimit := h.limit
      simp only [withinLimit, List.all_eq_true] at hlimit ⊢
      intro e he
      rcases tableWriteAll_mem he with hnew | hold
      · obtain ⟨x, -, rfl⟩ := hlimited e hnew
        cases hon : s.cfg.limitEn with
        | false => rfl
        | true => simpa using limited_le hon x.2
      · exact hlimit e hold

theorem dataStep_limitAndCommit (op : BitVec 8) {cand : List (Nat × Gray)} {s : State}
    (hcand : ∀ e ∈ cand, e.1 < totalChannels s.cfg) : DataStep s (limitAndCommit op cand s) :=
  (dataStep_writeLimited hcand).trans (dataStep_respond ..)

theorem dataStep_setter (op : BitVec 8) {inRange : Bool} {cand : List (Nat × Gray)} {s : State}
    (hcand : inRange = true → ∀ e ∈ cand, e.1 < totalChannels s.cfg) : DataStep s (setter op inRange cand s) := by
  rcases setter_cases op inRange cand s with ⟨-, h⟩ | ⟨hok, h⟩ <;> rw [h]
  · exact dataStep_raise ..
  · exact dataStep_limitAndCommit op (hcand hok)

/-- Candidates for every cell of the store lie in it. -/
theorem allCells_candidates_lt {c : Config} (val : Nat → Gray) :
    ∀ e ∈ (allCells c).map fun f => (f, val f), e.1 < totalChannels c := by
  intro e he
  obtain ⟨f, hf, rfl⟩ := List.mem_map.mp he
  exact List.mem_range.mp hf

theorem ledInRange_iff {c : Config} {led : Nat} : ledInRange c led = true ↔ led < 8 * chips c :=
  decide_eq_true_iff

/-- The cells of an LED of the chain are cells of the store (20_memory.md R61, R62). -/
theorem ledCells_lt {c : Config} {led : Nat} (hled : ledInRange c led = true) :
    ∀ f ∈ ledCells led, f < totalChannels c := by
  have hlt := ledInRange_iff.mp hled
  simp only [ledCells, cellIndex, chipOfLed, ledInChip, totalChannels, List.forall_mem_cons]
  exact ⟨by omega, by omega, by omega, by simp⟩

theorem ledCandidates_lt {c : Config} {led : Nat} (hled : ledInRange c led = true) (r g b : Gray) :
    ∀ e ∈ ledCandidates led r g b, e.1 < totalChannels c := fun _ he =>
  ledCells_lt hled _ (List.of_mem_zip he).1

/-- The check of SET_LED_RGB and SET_LED_APPEND passes only for an LED of the chain (40_store.md R112, R114). -/
theorem ledInRange_of_check {c : Config} {led r g b : Nat}
    (h : (ledInRange c led && valueInRange r && valueInRange g && valueInRange b) = true) : ledInRange c led = true := by
  simp only [Bool.and_eq_true] at h
  exact h.1.1.1

theorem execSetLedAppend_data (led dr dg db : Nat) (s : State) :
    Ensures (DataStep s) (execSetLedAppend led dr dg db s) := by
  refine dataStep_setter _ fun hok e he => ?_
  obtain ⟨x, hx, rfl⟩ := List.mem_map.mp he
  exact ledCells_lt (ledInRange_of_check hok) _ (List.of_mem_zip hx).1

theorem execSetChannel_data (f v : Nat) (s : State) : Ensures (DataStep s) (execSetChannel f v s) := by
  refine dataStep_setter _ fun hok e he => ?_
  obtain rfl := List.mem_singleton.mp he
  simp only [channelInRange, Bool.and_eq_true, decide_eq_true_eq] at hok
  exact hok.1

/-! #### The pin orders -/

theorem dataStep_commitPinOrder (op : BitVec 8) {leds : List Nat} (o : PinOrder) {s : State}
    (hleds : ∀ led ∈ leds, led < totalLeds s.cfg) : DataStep s (commitPinOrder op leds o s) := by
  refine DataStep.trans (t := { s with po := tableWriteAll (initialPinOrder s.cfg) s.po (leds.map fun led => (led, o)) })
    ⟨rfl, fun h => { h with pins := ?_ }⟩ (dataStep_respond ..)
  have hpins := h.pins
  have hkeys : ∀ e ∈ leds.map fun led => (led, o), e.1 < totalLeds s.cfg := by simpa using hleds
  simp only [pinTableSound, Bool.and_eq_true] at hpins ⊢
  exact ⟨tableWf_writeAll hpins.1 _, tableBelow_writeAll hpins.2 hkeys⟩

theorem execSetPinOrder_data (led p0 p1 p2 : Nat) (s : State) :
    Ensures (DataStep s) (execSetPinOrder led p0 p1 p2 s) := by
  simp only [execSetPinOrder, Ensures]
  split
  · split
    · have hled : led < totalLeds s.cfg := ledInRange_iff.mp ‹_›
      exact dataStep_commitPinOrder _ _ (by simpa using hled)
    · exact dataStep_raise ..
  · exact dataStep_raise ..

theorem execSetPinOrderAll_data (p0 p1 p2 : Nat) (s : State) :
    Ensures (DataStep s) (execSetPinOrderAll p0 p1 p2 s) := by
  simp only [execSetPinOrderAll, Ensures]
  split
  · exact dataStep_commitPinOrder _ _ (by simp)
  · exact dataStep_raise ..

/-! #### The getters -/

theorem execGetChannel_data (led c : Nat) (s : State) : Ensures (DataStep s) (execGetChannel led c s) := by
  simp only [execGetChannel, Ensures]
  split <;> exact dataStep_respond ..

theorem execGetLed_data (chip l : Nat) (s : State) : Ensures (DataStep s) (execGetLed chip l s) := by
  simp only [execGetLed, Ensures]
  split <;> exact dataStep_respond ..

/-! #### The transmit commands -/

theorem execShiftRow_data (r : Nat) (s : State) : Ensures (DataStep s) (execShiftRow r s) := by
  simp only [execShiftRow, Ensures]
  split
  · have hrow : rowInRange s.cfg r = true := ‹_›
    have hshift := (dataStep_noPending s).trans (shiftRow_keeps r { s with pendingRow := none }).dataStep
    cases hp : shiftRow r { s with pendingRow := none } with
    | ok t =>
      rw [hp] at hshift
      have hend := hshift.trans (dataStep_enterPhase t .idle r)
      exact hend.trans ((dataStep_pending (by rw [hend.cfg]; exact hrow)).trans (dataStep_respond ..))
    | fail t =>
      rw [hp] at hshift
      exact hshift.trans ((dataStep_enterPhase t .idle r).trans (dataStep_respond ..))
    | halted t => rw [hp] at hshift; exact hshift
  · exact dataStep_raise ..

theorem latchRow_data (r : Nat) (s : State) : DataStep s (latchRow r s) := by
  unfold latchRow
  split
  · split
    · have hpulse := (dataStep_enterPhase s .latching r).trans (pulse_keeps r (s.enterPhase .latching r)).dataStep
      cases hp : pulse r (s.enterPhase .latching r) with
      | ok t =>
        rw [hp] at hpulse
        exact hpulse.trans (((dataStep_enterPhase t .idle r).trans (dataStep_noPending _)).trans (dataStep_respond ..))
      | fail t => rw [hp] at hpulse; exact hpulse
      | halted t => rw [hp] at hpulse; exact hpulse
    · exact dataStep_raise ..
  · exact dataStep_raise ..

theorem updateAll_data (s : State) : DataStep s (updateAll s) := by
  unfold updateAll
  have hrows := (dataStep_noPending s).trans (updateRows_keeps (rowSeq s.cfg) { s with pendingRow := none }).dataStep
  cases hp : updateRows (rowSeq s.cfg) { s with pendingRow := none } with
  | ok t => rw [hp] at hrows; exact hrows.trans (dataStep_respond ..)
  | fail t => rw [hp] at hrows; exact hrows.trans (dataStep_respond ..)
  | halted t => rw [hp] at hrows; exact hrows

theorem withLatchCtrl_data (op : BitVec 8) {run : State → State} {s : State} (h : DataStep s (run s)) :
    DataStep s (withLatchCtrl op run s) := by
  rcases withLatchCtrl_cases op run s with ⟨-, heq⟩ | ⟨-, heq⟩ <;> rw [heq]
  · exact h
  · exact dataStep_raise ..

/-! #### Every command -/

/-- Every command leaves the configuration alone and keeps sound data sound. -/
theorem exec_data (i : Instr) (s : State) : Ensures (DataStep s) (exec i s) := by
  cases i with
  | setAll v => exact dataStep_setter _ fun _ => allCells_candidates_lt _
  | setAllRgb r g b => exact dataStep_setter _ fun _ => allCells_candidates_lt _
  | setLedMono led v =>
    exact dataStep_setter _ fun hok => ledCandidates_lt (Bool.and_eq_true_iff.mp hok).1 _ _ _
  | setLedRgb led r g b => exact dataStep_setter _ fun hok => ledCandidates_lt (ledInRange_of_check hok) _ _ _
  | setLedAppend led dr dg db => exact execSetLedAppend_data led dr dg db s
  | setChannel f v => exact execSetChannel_data f v s
  | getChannel led c => exact execGetChannel_data led c s
  | getLed chip l => exact execGetLed_data chip l s
  | enforceMaxCurrent => exact dataStep_limitAndCommit _ (allCells_candidates_lt _)
  | setPinOrder led p0 p1 p2 => exact execSetPinOrder_data led p0 p1 p2 s
  | setPinOrderAll p0 p1 p2 => exact execSetPinOrderAll_data p0 p1 p2 s
  | shiftRow r => exact execShiftRow_data r s
  | latch r => exact withLatchCtrl_data _ (latchRow_data r s)
  | update => exact withLatchCtrl_data _ (updateAll_data s)

theorem runWord_data (w : Word) (s : State) : Ensures (DataStep s) (runWord w s) := by
  unfold runWord
  split
  · exact exec_data _ s
  · exact dataStep_raise ..

/-- Every step outside reset leaves the configuration alone and keeps sound data sound. -/
theorem step_data {s t : State} (hr : s.inReset = false) (h : step s = .next t) : DataStep s t := by
  rcases step_cases h with ⟨hin, -, -⟩ | ⟨-, -, rfl⟩ | ⟨-, -, -, -, -, rfl⟩ | ⟨w, rest, -, -, -, -, -, hrun⟩
  · simp [hr] at hin
  · exact dataStep_assertReset s
  · exact .of_eq rfl rfl rfl rfl
  · have haccepted : DataStep s (s.commandAccepted rest) := .of_eq rfl rfl rfl rfl
    have hword := runWord_data w (s.commandAccepted rest)
    rw [hrun] at hword
    exact haccepted.trans hword

/-! ### Where a command leaves the sequencer and the latch lines -/

/-- Outside reset in phase `p`, with nothing half done: accumulator, cursor, lines and response port are empty. -/
structure AtRest (p : Phase) (s : State) : Prop where
  inReset : s.inReset = false
  phase : s.phase = p
  accum : s.accum = Accumulator.empty
  cursor : s.cursor = none
  latch : s.latch = []
  rspPort : s.rspPort = none

theorem AtRest.withData {p : Phase} {s : State} (h : AtRest p s) (gs : Table Gray) (po : Table PinOrder)
    (row : Option Nat) : AtRest p { s with gs := gs, po := po, pendingRow := row } :=
  ⟨h.inReset, h.phase, h.accum, h.cursor, h.latch, h.rspPort⟩

theorem AtRest.enterPhase {p : Phase} {s : State} (h : AtRest p s) (q : Phase) (r : Nat) : AtRest q (s.enterPhase q r) :=
  ⟨h.inReset, rfl, h.accum, h.cursor, h.latch, h.rspPort⟩

theorem AtRest.commandAccepted {p : Phase} {s : State} (h : AtRest p s) (rest : List Word) :
    AtRest p (s.commandAccepted rest) :=
  ⟨h.inReset, h.phase, h.accum, h.cursor, h.latch, h.rspPort⟩

/-- An idle block outside reset keeps the control half exactly when accumulator, cursor and lines are empty. -/
theorem controlSound_idle_iff {s : State} (hr : s.inReset = false) (hp : s.phase = .idle) :
    ControlSound s ↔ s.accum = Accumulator.empty ∧ s.cursor = none ∧ s.latch = [] := by
  constructor
  · rintro ⟨hseq, hlines⟩
    simpa [sequencerSound, linesLow, hr, hp, and_assoc] using And.intro hseq hlines
  · rintro ⟨haccum, hcursor, hlatch⟩
    exact ⟨by simp [sequencerSound, hp, haccum, hcursor], by simp [linesLow, hlatch]⟩

/-- A response keeps the control half: the sequencer is not touched, or reset is asserted. -/
theorem respond_control {s : State} (h : AtRest .idle s) (op : BitVec 8) (st : Status) (n : Nat) (d0 d1 d2 : Gray) :
    ControlSound (respond op st n d0 d1 d2 s) := by
  rcases respond_cases op st n d0 d1 d2 s with ⟨-, heq⟩ | ⟨-, heq⟩ <;> rw [heq]
  · exact controlSound_assertReset s
  · refine (controlSound_idle_iff ?_ ?_).mpr ⟨h.accum, h.cursor, h.latch⟩
    · exact h.inReset
    · exact h.phase

theorem raise_control {s : State} (h : AtRest .idle s) (op : BitVec 8) (e : Status) : ControlSound (raise op e s) :=
  respond_control h ..

theorem limitAndCommit_control {s : State} (h : AtRest .idle s) (op : BitVec 8) (cand : List (Nat × Gray)) :
    ControlSound (limitAndCommit op cand s) :=
  respond_control (h.withData _ s.po s.pendingRow) ..

theorem setter_control {s : State} (h : AtRest .idle s) (op : BitVec 8) (inRange : Bool) (cand : List (Nat × Gray)) :
    ControlSound (setter op inRange cand s) := by
  rcases setter_cases op inRange cand s with ⟨-, heq⟩ | ⟨-, heq⟩ <;> rw [heq]
  · exact raise_control h ..
  · exact limitAndCommit_control h ..

theorem commitPinOrder_control {s : State} (h : AtRest .idle s) (op : BitVec 8) (leds : List Nat) (o : PinOrder) :
    ControlSound (commitPinOrder op leds o s) :=
  respond_control (h.withData s.gs _ s.pendingRow) ..

/-! #### A row's shift (42_bit_packer.md R166) -/

/-- How an operation of a transmission ends: in `P` after `ok`, in `F` after `fail`, and in a state of the control half where reset or a
silent transport cut it short. -/
def Progress.EndsIn (P F : State → Prop) : Progress → Prop
  | .ok s => P s
  | .fail s => F s
  | .halted s => ControlSound s

theorem Progress.EndsIn.andThen {P Q F : State → Prop} {p : Progress} {f : State → Progress} (hp : p.EndsIn P F)
    (hf : ∀ s, P s → (f s).EndsIn Q F) : (p.andThen f).EndsIn Q F := by
  cases p with
  | ok s => exact hf s hp
  | fail s => exact hp
  | halted s => exact hp

/-- Within a row's shift. -/
structure Shifting (s : State) : Prop where
  inReset : s.inReset = false
  phase : s.phase = .shifting
  latch : s.latch = []
  rspPort : s.rspPort = none

/-- Within a row's shift, at the value of a cursor position. -/
structure Transmitting (s : State) : Prop extends Shifting s where
  cursor : s.cursor.isSome = true

/-- Within a row's shift, between values: bits are held only once a value was pushed. -/
structure BetweenValues (s : State) : Prop extends Shifting s where
  cursor : 0 < s.accum.cnt → s.cursor.isSome = true

theorem Transmitting.withAccum {s : State} (h : Transmitting s) (a : Accumulator) : Transmitting { s with accum := a } :=
  ⟨⟨h.inReset, h.phase, h.latch, h.rspPort⟩, h.cursor⟩

theorem Transmitting.betweenValues {s : State} (h : Transmitting s) : BetweenValues s := ⟨h.toShifting, fun _ => h.cursor⟩

/-- A transmission that waits for the transport keeps the control half (70_reset_and_hazards.md R245). -/
theorem Transmitting.controlSound {s : State} (h : Transmitting s) : ControlSound s :=
  ⟨by simp [sequencerSound, h.phase, h.cursor, h.rspPort], by simp [linesLow, h.latch]⟩

theorem Shifting.byteAnswered {s : State} (h : Shifting s) (b : Byte) (a : Answer) : Shifting (s.byteAnswered b a) :=
  ⟨h.inReset, h.phase, h.latch, h.rspPort⟩

theorem Shifting.endShift {s : State} (h : Shifting s) : AtRest .shifting s.endShift :=
  ⟨h.inReset, h.phase, rfl, rfl, h.latch, h.rspPort⟩

theorem emit_endsIn {s : State} (h : Transmitting s) (b : Byte) : (emit b s).EndsIn Transmitting Shifting := by
  rcases emit_cases b s with ⟨-, heq⟩ | ⟨-, -, heq⟩ | ⟨-, -, heq⟩ | ⟨-, -, heq⟩ <;> rw [heq]
  · exact controlSound_assertReset s
  · have hwaiting : Transmitting s.byteUnanswered := ⟨⟨h.inReset, h.phase, h.latch, h.rspPort⟩, h.cursor⟩
    simp only [Progress.EndsIn]
    split
    · exact controlSound_assertReset _
    · exact hwaiting.controlSound
  · exact ⟨h.toShifting.byteAnswered b .ok, h.cursor⟩
  · exact h.toShifting.byteAnswered b .fail

theorem drain_endsIn (n : Nat) {s : State} (h : Transmitting s) : (drain n s).EndsIn Transmitting Shifting := by
  induction n generalizing s with
  | zero => exact h
  | succ n ih => exact (emit_endsIn (h.withAccum _) _).andThen fun _ ht => ih ht

theorem push_endsIn {s : State} (h : Transmitting s) (v : Gray) : (push v s).EndsIn Transmitting Shifting :=
  drain_endsIn _ (h.withAccum _)

theorem pushWalk_endsIn (ks : List Cursor) {s : State} (h : BetweenValues s) :
    (pushWalk ks s).EndsIn BetweenValues Shifting := by
  induction ks generalizing s with
  | nil => exact h
  | cons k ks ih =>
    have hcursor : Transmitting { s with cursor := some k } := ⟨⟨h.inReset, h.phase, h.latch, h.rspPort⟩, rfl⟩
    exact (push_endsIn hcursor _).andThen fun _ ht => ih ht.betweenValues

theorem flush_endsIn {s : State} (h : BetweenValues s) : (flush s).EndsIn Shifting Shifting := by
  unfold flush
  split
  · have hheld : Transmitting s := ⟨h.toShifting, h.cursor ‹_›⟩
    have hemit := emit_endsIn (hheld.withAccum Accumulator.empty) s.accum.padded
    cases hp : emit s.accum.padded { s with accum := Accumulator.empty } with
    | ok t => rw [hp] at hemit; exact hemit.toShifting
    | fail t => rw [hp] at hemit; exact hemit
    | halted t => rw [hp] at hemit; exact hemit
  · exact h.toShifting

/-- A row's shift ends with nothing half done, accepted or refused by the transport. -/
theorem shiftRow_endsIn {p : Phase} {s : State} (h : AtRest p s) (r : Nat) :
    (shiftRow r s).EndsIn (AtRest .shifting) (AtRest .shifting) := by
  have hstart : BetweenValues { s.enterPhase .shifting r with accum := Accumulator.empty } :=
    ⟨⟨h.inReset, rfl, h.latch, h.rspPort⟩, fun hcnt => absurd hcnt (Nat.lt_irrefl 0)⟩
  have hrow := (pushWalk_endsIn (walk s.cfg r) hstart).andThen fun _ => flush_endsIn
  unfold shiftRow
  split <;> rename_i hp <;> rw [hp] at hrow
  · exact Shifting.endShift hrow
  · exact Shifting.endShift hrow
  · exact hrow

/-! #### The latch pulse (43_latch.md R182) -/

/-- A pulse never fails and leaves the block as much at rest as it was, its line low again. -/
theorem pulse_endsIn {p : Phase} {s : State} (h : AtRest p s) (r : Nat) {F : State → Prop} :
    (pulse r s).EndsIn (AtRest p) F := by
  simp only [pulse]
  split
  · exact controlSound_assertReset s
  · split
    · exact controlSound_assertReset _
    · show AtRest p _
      constructor <;> simp [h.inReset, h.phase, h.accum, h.cursor, h.latch, h.rspPort, tableWrite]

theorem updateRows_endsIn (rs : List Nat) {s : State} (h : AtRest .idle s) :
    (updateRows rs s).EndsIn (AtRest .idle) (AtRest .idle) := by
  induction rs generalizing s with
  | nil => exact h
  | cons r rs ih =>
    have hshift := shiftRow_endsIn h r
    unfold updateRows
    split <;> rename_i hp <;> rw [hp] at hshift
    · exact (pulse_endsIn (AtRest.enterPhase hshift .latching r) r).andThen fun _ ht => ih (ht.enterPhase .idle r)
    · exact AtRest.enterPhase hshift .idle r
    · exact hshift

/-! #### The commands -/

theorem execGetChannel_control {s : State} (h : AtRest .idle s) (led c : Nat) :
    Ensures ControlSound (execGetChannel led c s) := by
  simp only [execGetChannel, Ensures]
  split <;> exact respond_control h ..

theorem execGetLed_control {s : State} (h : AtRest .idle s) (chip l : Nat) :
    Ensures ControlSound (execGetLed chip l s) := by
  simp only [execGetLed, Ensures]
  split <;> exact respond_control h ..

theorem execSetPinOrder_control {s : State} (h : AtRest .idle s) (led p0 p1 p2 : Nat) :
    Ensures ControlSound (execSetPinOrder led p0 p1 p2 s) := by
  simp only [execSetPinOrder, Ensures]
  split
  · split
    · exact commitPinOrder_control h ..
    · exact raise_control h ..
  · exact raise_control h ..

theorem execSetPinOrderAll_control {s : State} (h : AtRest .idle s) (p0 p1 p2 : Nat) :
    Ensures ControlSound (execSetPinOrderAll p0 p1 p2 s) := by
  simp only [execSetPinOrderAll, Ensures]
  split
  · exact commitPinOrder_control h ..
  · exact raise_control h ..

theorem execShiftRow_control {s : State} (h : AtRest .idle s) (r : Nat) :
    Ensures ControlSound (execShiftRow r s) := by
  simp only [execShiftRow, Ensures]
  split
  · have hshift := shiftRow_endsIn (h.withData s.gs s.po none) r
    split <;> rename_i t hp <;> rw [hp] at hshift
    · exact respond_control ((AtRest.enterPhase hshift .idle r).withData t.gs t.po (some r)) ..
    · exact respond_control (AtRest.enterPhase hshift .idle r) ..
    · exact hshift
  · exact raise_control h ..

theorem latchRow_control {s : State} (h : AtRest .idle s) (r : Nat) : ControlSound (latchRow r s) := by
  unfold latchRow
  split
  · split
    · have hpulse := pulse_endsIn (h.enterPhase .latching r) r (F := fun _ => False)
      split <;> rename_i t hp <;> rw [hp] at hpulse
      · exact respond_control ((AtRest.enterPhase hpulse .idle r).withData t.gs t.po none) ..
      · exact hpulse.elim
      · exact hpulse
    · exact raise_control h ..
  · exact raise_control h ..

theorem updateAll_control {s : State} (h : AtRest .idle s) : ControlSound (updateAll s) := by
  have hrows := updateRows_endsIn (rowSeq s.cfg) (h.withData s.gs s.po none)
  unfold updateAll
  split <;> rename_i hp <;> rw [hp] at hrows
  · exact respond_control hrows ..
  · exact respond_control hrows ..
  · exact hrows

theorem withLatchCtrl_control {s : State} (h : AtRest .idle s) (op : BitVec 8) {run : State → State}
    (hrun : ControlSound (run s)) : ControlSound (withLatchCtrl op run s) := by
  rcases withLatchCtrl_cases op run s with ⟨-, heq⟩ | ⟨-, heq⟩ <;> rw [heq]
  · exact hrun
  · exact raise_control h ..

/-- From an idle block every command ends in a resting or a waiting sequencer, or in reset, with every line low. -/
theorem exec_control {s : State} (h : AtRest .idle s) (i : Instr) : Ensures ControlSound (exec i s) := by
  cases i with
  | setAll v => exact setter_control h ..
  | setAllRgb r g b => exact setter_control h ..
  | setLedMono led v => exact setter_control h ..
  | setLedRgb led r g b => exact setter_control h ..
  | setLedAppend led dr dg db => exact setter_control h ..
  | setChannel f v => exact setter_control h ..
  | getChannel led c => exact execGetChannel_control h led c
  | getLed chip l => exact execGetLed_control h chip l
  | enforceMaxCurrent => exact limitAndCommit_control h ..
  | setPinOrder led p0 p1 p2 => exact execSetPinOrder_control h led p0 p1 p2
  | setPinOrderAll p0 p1 p2 => exact execSetPinOrderAll_control h p0 p1 p2
  | shiftRow r => exact execShiftRow_control h r
  | latch r => exact withLatchCtrl_control h _ (latchRow_control h r)
  | update => exact withLatchCtrl_control h _ (updateAll_control h)

theorem runWord_control {s : State} (h : AtRest .idle s) (w : Word) : Ensures ControlSound (runWord w s) := by
  unfold runWord
  split
  · exact exec_control h _
  · exact raise_control h ..

/-- Every step outside reset keeps the control half. -/
theorem step_control {s t : State} (hr : s.inReset = false) (hs : ControlSound s) (h : step s = .next t) :
    ControlSound t := by
  rcases step_cases h with ⟨hin, -, -⟩ | ⟨-, -, rfl⟩ | ⟨-, -, hp, -, -, rfl⟩ | ⟨w, rest, -, -, hp, hq, -, hrun⟩
  · simp [hr] at hin
  · exact controlSound_assertReset s
  · exact (controlSound_idle_iff (s := s.responseTaken) hr hp).mpr ((controlSound_idle_iff hr hp).mp hs)
  · obtain ⟨haccum, hcursor, hlatch⟩ := (controlSound_idle_iff hr hp).mp hs
    have hrest : AtRest .idle s := ⟨hr, hp, haccum, hcursor, hlatch, hq⟩
    have hword := runWord_control (hrest.commandAccepted rest) w
    rw [hrun] at hword
    exact hword

/-- A step from reset releases it, under a legal configuration. -/
theorem step_from_reset {s t : State} (hr : s.inReset = true) (h : step s = .next t) :
    legalConfig s.cfgInputs = true ∧ t = s.released := by
  rcases step_cases h with ⟨-, hlegal, ht⟩ | ⟨hout, -⟩ | ⟨hout, -⟩ | ⟨_, _, hout, -⟩
  · exact ⟨hlegal, ht⟩
  · simp [hr] at hout
  · simp [hr] at hout
  · simp [hr] at hout

end Sys2Proof.Machine

namespace Sys2Proof.Proofs

open Sys2Proof.Machine

/-- Settles O58: a release gives the reset state, and every other step keeps both halves of the invariant. -/
theorem stepKeepsTheInvariant : Obligations.StepKeepsTheInvariant := by
  unfold Obligations.StepKeepsTheInvariant
  intro s t hinv hstep
  obtain ⟨hdata, hcontrol⟩ := inv_iff.mp hinv
  cases hr : s.inReset with
  | true =>
    obtain ⟨hlegal, rfl⟩ := step_from_reset hr hstep
    exact released_inv hlegal
  | false => exact inv_iff.mpr ⟨(step_data hr hstep).sound hdata, step_control hr hcontrol hstep⟩

/-- Settles O11: the one row of a chip is its quotient by the chips of a row. -/
theorem latchMapPartitionsTheChips : Obligations.LatchMapPartitionsTheChips := by
  unfold Obligations.LatchMapPartitionsTheChips
  refine fun c ch => ⟨fun r => mem_latchMap, fun hch => ?_⟩
  have hN : 0 < chipsPerRow c := Nat.pos_of_mul_pos_left (Nat.zero_lt_of_lt hch)
  exact ⟨ch / chipsPerRow c, Nat.div_lt_of_lt_mul (by rwa [Nat.mul_comm]), fun q => mem_latchMap_iff_div hN⟩

/-- Settles O54: assertion changes only what no observer sees, and release is `State.released`. -/
theorem releaseGivesTheResetState : Obligations.ReleaseGivesTheResetState := by
  unfold Obligations.ReleaseGivesTheResetState
  refine fun s => ⟨assertReset_trace s, rfl, fun hr hlegal => ?_, fun hr hillegal => ?_⟩
  · exact ⟨s.released, (step_of_inReset hr).trans (releaseReset_legal hlegal), rfl, fun _ => rfl,
      fun _ => some_initialPinOrder hlegal, rfl, rfl, rfl, rfl, rfl, rfl, rfl⟩
  · exact (step_of_inReset hr).trans (releaseReset_illegal hillegal)

/-- Settles O57: a release samples the inputs, and no other step writes the configuration. -/
theorem configurationIsConstant : Obligations.ConfigurationIsConstant := by
  unfold Obligations.ConfigurationIsConstant
  intro s t hstep
  cases hr : s.inReset with
  | true =>
    obtain ⟨-, rfl⟩ := step_from_reset hr hstep
    simp
  | false => simpa using (step_data hr hstep).cfg

/-- Settles O56: the model's check is the table's, with the six codes read from `PinOrder.ofCode?`. -/
theorem legalConfigurations : Obligations.LegalConfigurations := by
  unfold Obligations.LegalConfigurations
  intro c
  rw [legalConfig_iff, ofCode?_isSome_iff]
  rfl

/-- Settles O59: the tables are empty, the sequencer rests, and the monitor has seen nothing. -/
theorem resetMeetsTheInvariants : Obligations.ResetMeetsTheInvariants := by
  unfold Obligations.ResetMeetsTheInvariants
  exact fun c h => ⟨resetWith_inv h, resetWith_orderKept c⟩

end Sys2Proof.Proofs

/-! SUPPORT. Proofs of the statements of 20_memory.md: the flat channel index, and the step of a ready block. -/

namespace Sys2Proof.Machine

/-! ### The flat channel index (20_memory.md R62) -/

theorem cellIndex_parts (f : Nat) : cellIndex (chipOfChannel f) (ledOfChannel f) (colourOfChannel f) = f := by
  simp only [cellIndex, chipOfChannel, ledOfChannel, colourOfChannel]
  omega

theorem chipOfChannel_cellIndex (ch : Nat) {l c : Nat} (hl : l < 8) (hc : c < 3) :
    chipOfChannel (cellIndex ch l c) = ch := by
  simp only [cellIndex, chipOfChannel]
  omega

theorem ledOfChannel_cellIndex (ch : Nat) {l c : Nat} (hl : l < 8) (hc : c < 3) :
    ledOfChannel (cellIndex ch l c) = l := by
  simp only [cellIndex, ledOfChannel]
  omega

theorem colourOfChannel_cellIndex (ch l : Nat) {c : Nat} (hc : c < 3) : colourOfChannel (cellIndex ch l c) = c :=
  Nat.mul_add_mod_of_lt hc

/-! ### The step of a ready block (60_exceptions.md R206) -/

/-- A ready block takes the oldest offered word and runs it, whether it decodes or not. -/
theorem step_of_ready {s : State} {w : Word} {rest : List Word} (hready : Claims.Ready s) (hoffered : s.offered = w :: rest) :
    step s = runWord w (s.commandAccepted rest) := by
  obtain ⟨hreset, hdue, hidle, hport⟩ := hready
  simp [step, advance, hreset, hdue, hidle, hport, hoffered]

theorem runWord_of_decode {w : Word} {i : Instr} (h : decode w = .ok i) (s : State) : runWord w s = exec i s := by
  simp [runWord, h]

end Sys2Proof.Machine

namespace Sys2Proof.Proofs

open Sys2Proof.Machine

/-- Settles O10: quotients and remainders by 24 and 3 take the index apart and `cellIndex` puts it together. -/
theorem channelIndexIsOneToOne : Obligations.ChannelIndexIsOneToOne := by
  unfold Obligations.ChannelIndexIsOneToOne
  exact ⟨cellIndex_parts, fun ch l c hl hc =>
    ⟨chipOfChannel_cellIndex ch hl hc, ledOfChannel_cellIndex ch hl hc, colourOfChannel_cellIndex ch l hc⟩⟩

/-- Settles O47: a ready block runs the oldest offered word, and running a word that decodes is `exec` of its command. -/
theorem stepRunsTheDecodedCommand : Obligations.StepRunsTheDecodedCommand := by
  unfold Obligations.StepRunsTheDecodedCommand
  intro s w rest i hready hoffered hdecode
  calc step s = runWord w (s.commandAccepted rest) := step_of_ready hready hoffered
    _ = exec i (s.commandAccepted rest) := runWord_of_decode hdecode _

end Sys2Proof.Proofs

/-! SUPPORT. Proofs of the statements of 30_encoding.md about command words: the row that a word matches, bit by bit and field by field,
and the round trip between words and commands (R80 to R86, R91). -/

namespace Sys2Proof

/-! ### The row that a word matches (30_encoding.md R84) -/

section
variable {o : Opcode} {w : Word}

/-- A field whose mask is all ones holds what the row's pattern holds there. -/
theorem field_of_matches (h : w &&& o.mask = o.pattern) {s k : Nat} (hmask : o.mask.extractLsb' s k = BitVec.allOnes k) :
    w.extractLsb' s k = o.pattern.extractLsb' s k := by
  rw [← h, BitVec.extractLsb'_and, hmask, BitVec.and_allOnes]

theorem opField_of_matches (h : w &&& o.mask = o.pattern) : opField w = o.code := by
  have hmask : o.mask.extractLsb' 120 8 = BitVec.allOnes 8 := by cases o <;> rfl
  exact (field_of_matches h hmask).trans (field_above (by decide) BitVec.extractLsb'_eq_self)

/-- Below `OP`, a field whose mask is all ones is 0. -/
theorem field_eq_zero_of_matches (h : w &&& o.mask = o.pattern) {s k : Nat} (hlow : s + k ≤ 120)
    (hmask : o.mask.extractLsb' s k = BitVec.allOnes k) : w.extractLsb' s k = 0#k := by
  rw [field_of_matches h hmask, Opcode.pattern, BitVec.extractLsb'_append_eq_of_add_le hlow]
  exact BitVec.extractLsb'_zero

/-- R84: a word decodes exactly when it matches a row, and then to the command of that row with the word's operands. -/
theorem decode_eq_ok_iff {i : Instr} : decode w = .ok i ↔ ∃ o : Opcode, w &&& o.mask = o.pattern ∧ o.withOperands w = i := by
  constructor
  · intro h
    unfold decode at h
    split at h
    · simp at h
    · split at h
      · exact ⟨_, ‹_›, by simpa using h⟩
      · simp at h
  · rintro ⟨o, hrow, rfl⟩
    simp [decode, Opcode.ofField?_eq_some.mpr (opField_of_matches hrow), hrow]

@[simp] theorem opcode_withOperands (o : Opcode) (w : Word) : (o.withOperands w).opcode = o := by
  cases o <;> rfl

/-! ### The word of a command (30_encoding.md R91) -/

theorem encode_matches (i : Instr) : encode i &&& i.opcode.mask = i.opcode.pattern := by
  cases i with
  | setAll v => exact Laws.EncodeMatchesRow.setAll v
  | setAllRgb r g b => exact Laws.EncodeMatchesRow.setAllRgb r g b
  | setLedMono led v => exact Laws.EncodeMatchesRow.setLedMono led v
  | setLedRgb led r g b => exact Laws.EncodeMatchesRow.setLedRgb led r g b
  | setLedAppend led dr dg db => exact Laws.EncodeMatchesRow.setLedAppend led dr dg db
  | setChannel f v => exact Laws.EncodeMatchesRow.setChannel f v
  | getChannel led c => exact Laws.EncodeMatchesRow.getChannel led c
  | getLed chip l => exact Laws.EncodeMatchesRow.getLed chip l
  | enforceMaxCurrent => exact Laws.EncodeMatchesRow.enforceMaxCurrent
  | setPinOrder led p0 p1 p2 => exact Laws.EncodeMatchesRow.setPinOrder led p0 p1 p2
  | setPinOrderAll p0 p1 p2 => exact Laws.EncodeMatchesRow.setPinOrderAll p0 p1 p2
  | shiftRow r => exact Laws.EncodeMatchesRow.shiftRow r
  | latch r => exact Laws.EncodeMatchesRow.latch r
  | update => exact Laws.EncodeMatchesRow.update

theorem valueFits_iff {v : Nat} : valueFits v = true ↔ v < 2 ^ 16 := decide_eq_true_iff
theorem indexFits_iff {i : Nat} : indexFits i = true ↔ i < 2 ^ 32 := decide_eq_true_iff
theorem auxFits_iff {x : Nat} : auxFits x = true ↔ x < 2 ^ 8 := decide_eq_true_iff
theorem slotFits_iff {p : Nat} : slotFits p = true ↔ p < 4 := decide_eq_true_iff

/-- The operands of a well-formed command read back from its word: each fits the field that `encode` places it in. -/
theorem withOperands_encode {i : Instr} (h : i.wellFormed = true) : i.opcode.withOperands (encode i) = i := by
  cases i <;>
    simp_all [Instr.wellFormed, Instr.opcode, Opcode.withOperands, encode, valueFits_iff, indexFits_iff, auxFits_iff,
      slotFits_iff, codeSlots_slotsCode]

/-! ### The command of a word (30_encoding.md R81, R82, R86) -/

theorem codeSlots_lt (code : BitVec 6) :
    (codeSlots code).1 < 4 ∧ (codeSlots code).2.1 < 4 ∧ (codeSlots code).2.2 < 4 :=
  ⟨BitVec.isLt _, BitVec.isLt _, BitVec.isLt _⟩

/-- Operands read from the fields of a word fit those fields. -/
theorem wellFormed_withOperands (o : Opcode) (w : Word) : (o.withOperands w).wellFormed = true := by
  cases o <;>
    simp [Opcode.withOperands, Instr.wellFormed, valueFits_iff, indexFits_iff, auxFits_iff, slotFits_iff, codeSlots_lt,
      BitVec.isLt (w := 16), BitVec.isLt (w := 32), BitVec.isLt (w := 8)]

/-- A permutation code is packed from its slots (R86). -/
theorem slotsCode_codeSlots : ∀ code : BitVec 6,
    slotsCode (codeSlots code).1 (codeSlots code).2.1 (codeSlots code).2.2 = code := by
  decide

/-- A word whose bits outside every field are 0 is assembled from its fields. -/
theorem assembleWord_fields (hrsv0 : w.extractLsb' 96 16 = 0#16) (hrsv1 : w.extractLsb' 0 16 = 0#16) :
    assembleWord (opField w) (auxField w) (idxField w) (vaField w) (vbField w) (vcField w) = w := by
  have hjoin : opField w ++ auxField w ++ w.extractLsb' 96 16 ++ idxField w ++ vaField w ++ vbField w ++ vcField w ++
      w.extractLsb' 0 16 = w := by
    simp only [opField, auxField, idxField, vaField, vbField, vcField,
      BitVec.extractLsb'_append_extractLsb'_eq_extractLsb']
    exact BitVec.extractLsb'_eq_self
  rwa [hrsv0, hrsv1] at hjoin

theorem assembleWord_of_matches (h : w &&& o.mask = o.pattern) :
    assembleWord o.code (auxField w) (idxField w) (vaField w) (vbField w) (vcField w) = w := by
  have hrsv0 : w.extractLsb' 96 16 = 0#16 := field_eq_zero_of_matches h (by decide) (by cases o <;> rfl)
  have hrsv1 : w.extractLsb' 0 16 = 0#16 := field_eq_zero_of_matches h (by decide) (by cases o <;> rfl)
  rw [← opField_of_matches h, assembleWord_fields hrsv0 hrsv1]

theorem auxField_eq_zero (h : w &&& o.mask = o.pattern) (hmask : auxField o.mask = BitVec.allOnes 8) : auxField w = 0#8 :=
  field_eq_zero_of_matches h (by decide) hmask

theorem idxField_eq_zero (h : w &&& o.mask = o.pattern) (hmask : idxField o.mask = BitVec.allOnes 32) : idxField w = 0#32 :=
  field_eq_zero_of_matches h (by decide) hmask

theorem vaField_eq_zero (h : w &&& o.mask = o.pattern) (hmask : vaField o.mask = BitVec.allOnes 16) : vaField w = 0#16 :=
  field_eq_zero_of_matches h (by decide) hmask

theorem vbField_eq_zero (h : w &&& o.mask = o.pattern) (hmask : vbField o.mask = BitVec.allOnes 16) : vbField w = 0#16 :=
  field_eq_zero_of_matches h (by decide) hmask

theorem vcField_eq_zero (h : w &&& o.mask = o.pattern) (hmask : vcField o.mask = BitVec.allOnes 16) : vcField w = 0#16 :=
  field_eq_zero_of_matches h (by decide) hmask

/-- In a pin-order row AUX is its permutation code, zero-extended (R84: `AUX[7:6]` is inside the mask). -/
theorem auxField_eq_code (h : w &&& o.mask = o.pattern) (hmask : o.mask.extractLsb' 118 2 = BitVec.allOnes 2) :
    0#2 ++ (auxField w).extractLsb' 0 6 = auxField w := by
  have htop : (auxField w).extractLsb' 6 2 = w.extractLsb' 118 2 := by
    ext k hk
    simp [auxField, show 6 + k < 8 by omega, ← Nat.add_assoc]
  rw [← field_eq_zero_of_matches h (by decide) hmask, ← htop]
  exact BitVec.extractLsb'_append_extractLsb' (w := 2)

/-- A word that matches a row is the word of that row's command: its operand fields are the command's, its other fields are 0.
Which fields those are the row's mask says, and so which of the lemmas above apply. -/
theorem encode_withOperands (h : w &&& o.mask = o.pattern) : encode (o.withOperands w) = w := by
  refine Eq.trans ?_ (assembleWord_of_matches h)
  cases o <;>
    simp (disch := decide) [Opcode.withOperands, encode, Instr.opcode, slotsCode_codeSlots, auxField_eq_code h, auxField_eq_zero h,
      idxField_eq_zero h, vaField_eq_zero h, vbField_eq_zero h, vcField_eq_zero h]

/-! ### A row bit by bit (30_encoding.md R84) -/

theorem Opcode.pattern_getLsbD (o : Opcode) (b : Nat) :
    o.pattern.getLsbD b = if b < 120 then false else o.code.getLsbD (b - 120) :=
  BitVec.getLsbD_append.trans (by simp)

theorem mask_top_bit (o : Opcode) : ∀ b < 128, 120 ≤ b → o.mask.getLsbD b = true := by
  cases o <;> decide

/-- R84 bit by bit: `OP` is the row's code, and below it every bit inside the mask is 0. -/
theorem matches_iff_bits : w &&& o.mask = o.pattern ↔
    opField w = o.code ∧ ∀ b < 120, o.mask.getLsbD b = true → w.getLsbD b = false := by
  constructor
  · intro h
    refine ⟨opField_of_matches h, fun b hb hmask => ?_⟩
    have hbit := congrArg (BitVec.getLsbD · b) h
    simpa [hmask, Opcode.pattern_getLsbD, hb] using hbit
  · rintro ⟨hop, hbits⟩
    refine BitVec.eq_of_getLsbD_eq fun b hb => ?_
    rw [BitVec.getLsbD_and, Opcode.pattern_getLsbD]
    split
    · cases hmask : o.mask.getLsbD b with
      | false => simp
      | true => simp [hbits b ‹_› hmask]
    · obtain ⟨k, rfl⟩ := Nat.exists_eq_add_of_le (Nat.le_of_not_lt ‹_›)
      have hk : k < 8 := by omega
      have hopk := congrArg (BitVec.getLsbD · k) hop
      simpa [opField, hk, mask_top_bit o _ hb (Nat.le_add_right ..)] using hopk

/-- The mask's bits below `OP` are those outside the operand ranges of R84's table. -/
theorem mask_bit_iff (o : Opcode) :
    ∀ b < 120, o.mask.getLsbD b = true ↔ ∀ hl ∈ Claims.operandBits o, ¬ (hl.2 ≤ b ∧ b ≤ hl.1) := by
  cases o <;> decide

end

end Sys2Proof

namespace Sys2Proof.Proofs

open Sys2Proof.Claims

/-- Settles O1: the word matches the row of its opcode, and every operand reads back from the field it was placed in. -/
theorem decodeEncodeRoundTrip : Obligations.DecodeEncodeRoundTrip := by
  unfold Obligations.DecodeEncodeRoundTrip
  exact fun i hwf => decode_eq_ok_iff.mpr ⟨i.opcode, encode_matches i, withOperands_encode hwf⟩

/-- Settles O2: the word matches a row, so its command is that row's with the word's operands. -/
theorem encodeDecodeRoundTrip : Obligations.EncodeDecodeRoundTrip := by
  unfold Obligations.EncodeDecodeRoundTrip
  intro w i hdecode
  obtain ⟨o, hrow, rfl⟩ := decode_eq_ok_iff.mp hdecode
  exact ⟨wellFormed_withOperands o w, encode_withOperands hrow⟩

/-- Settles O3: each word is concrete, and the decoder runs on it. -/
theorem specWordsDecode : Obligations.SpecWordsDecode := by
  unfold Obligations.SpecWordsDecode
  exact ⟨by decide, by decide, by decide, by decide, by decide, by decide⟩

/-- Settles O4: the row of a decoded command is its opcode's, and a row read bit by bit is `OP` and the zeros outside the operands. -/
theorem decodesExactlyItsRow : Obligations.DecodesExactlyItsRow := by
  unfold Obligations.DecodesExactlyItsRow
  intro w o
  calc (∃ i, decode w = .ok i ∧ i.opcode = o) ↔ w &&& o.mask = o.pattern := by
        constructor
        · rintro ⟨i, hdecode, rfl⟩
          obtain ⟨o, hrow, rfl⟩ := decode_eq_ok_iff.mp hdecode
          simpa using hrow
        · exact fun hrow => ⟨_, decode_eq_ok_iff.mpr ⟨o, hrow, rfl⟩, opcode_withOperands o w⟩
    _ ↔ opField w = o.code ∧ ∀ b < 120, o.mask.getLsbD b = true → w.getLsbD b = false := matches_iff_bits
    _ ↔ opField w = o.code ∧
          ∀ b < 120, (∀ hl ∈ operandBits o, ¬ (hl.2 ≤ b ∧ b ≤ hl.1)) → w.getLsbD b = false :=
        and_congr_right' (forall₂_congr fun b hb => imp_congr_left (mask_bit_iff o b hb))

end Sys2Proof.Proofs

/-! SUPPORT. The pin-order codes, the fields of a response word, and a command word as shifted fields (30_encoding.md R86 to R91). -/

namespace Sys2Proof

/-! ### The bits outside every field (30_encoding.md R80) -/

section
variable (op aux : BitVec 8) (idx : BitVec 32) (va vb vc : BitVec 16)

theorem rsv0_assembleWord : (assembleWord op aux idx va vb vc).extractLsb' 96 16 = 0#16 :=
  field_above (by decide) (field_above (by decide) (field_above (by decide) (field_above (by decide)
    (field_above (by decide) field_low))))

theorem rsv1_assembleWord : (assembleWord op aux idx va vb vc).extractLsb' 0 16 = 0#16 :=
  field_low

end

end Sys2Proof

namespace Sys2Proof.Machine

/-! ### The pin-order entries (30_encoding.md R86) -/

theorem slots_of_ofSlots? {p0 p1 p2 : Nat} {o : PinOrder} (h : PinOrder.ofSlots? p0 p1 p2 = some o) :
    (o.slot .red).val = p0 ∧ (o.slot .green).val = p1 ∧ (o.slot .blue).val = p2 := by
  unfold PinOrder.ofSlots? at h
  split at h <;> cases h <;> exact ⟨rfl, rfl, rfl⟩

theorem ofCode?_isSome_iff_perm : ∀ code : BitVec 6, (PinOrder.ofCode? code).isSome = true ↔
    [(code.extractLsb' 0 2).toNat, (code.extractLsb' 2 2).toNat, (code.extractLsb' 4 2).toNat].Perm [0, 1, 2] := by
  decide

/-! ### Response words (30_encoding.md R87, R88) -/

/-- A response word has the layout of a command word: STATUS stands for `OP`, ROP for AUX, COUNT for IDX, the data for the values. -/
theorem responseWord_eq (op : BitVec 8) (st : Status) (n : Nat) (d0 d1 d2 : Gray) :
    responseWord op st n d0 d1 d2 =
      assembleWord (statusCode st) op (BitVec.ofNat 32 n) (d0.setWidth 16) (d1.setWidth 16) (d2.setWidth 16) := rfl

theorem rop_responseWord (op : BitVec 8) (st : Status) (n : Nat) (d0 d1 d2 : Gray) :
    (responseWord op st n d0 d1 d2).extractLsb' 112 8 = op := by
  rw [responseWord_eq]
  exact auxField_assembleWord ..

/-- A datum is zero-extended to its field. -/
theorem toNat_setWidth_gray (d : Gray) : (d.setWidth 16).toNat = d.toNat :=
  BitVec.toNat_setWidth_of_le (by decide)

end Sys2Proof.Machine

namespace Sys2Proof.Proofs

open Sys2Proof.Machine

/-- Settles O6: of the 64 codes those of a permutation are entries, and an entry's slots are those it was read from. -/
theorem permutationCodesAreThePermutations : Obligations.PermutationCodesAreThePermutations := by
  unfold Obligations.PermutationCodesAreThePermutations
  exact fun code => ⟨ofCode?_isSome_iff_perm code, fun _ h => slots_of_ofSlots? h⟩

/-- Settles O7: the fields of a response word are those of the assembled word it is. -/
theorem responseWordFields : Obligations.ResponseWordFields := by
  unfold Obligations.ResponseWordFields
  intro op st n d0 d1 d2
  rw [responseWord_eq]
  refine ⟨(opField_assembleWord ..).trans ?_, auxField_assembleWord .., rsv0_assembleWord .., idxField_assembleWord ..,
    (congrArg BitVec.toNat (vaField_assembleWord ..)).trans (toNat_setWidth_gray d0),
    (congrArg BitVec.toNat (vbField_assembleWord ..)).trans (toNat_setWidth_gray d1),
    (congrArg BitVec.toNat (vcField_assembleWord ..)).trans (toNat_setWidth_gray d2), rsv1_assembleWord ..⟩
  cases st <;> rfl

/-- Settles O9: each append shifts what stands above it, and the shifts add up. -/
theorem wordIsItsShiftedFields : Obligations.WordIsItsShiftedFields := by
  unfold Obligations.WordIsItsShiftedFields
  intro op aux idx va vb vc
  rw [← BitVec.setWidth_eq (assembleWord op aux idx va vb vc), assembleWord]
  simp only [BitVec.setWidth_append_eq_shiftLeft_setWidth_or, BitVec.shiftLeft_or_distrib, ← BitVec.shiftLeft_add]
  simp

end Sys2Proof.Proofs

/-! SUPPORT. The one response of every command (30_encoding.md R88): while a command runs with no reset coming and a transport that
answers, nothing it records is a response (`Running`), and it ends by responding (`AnsweredOnce`). -/

namespace Sys2Proof.Machine

/-- In the midst of a command begun with the record `l`: no reset is coming, the listed replies are answers, and nothing recorded since
is a response. -/
structure Running (l : List Event) (s : State) : Prop where
  noReset : s.resetAfter = none
  answers : .never ∉ s.replies
  log : ∃ es, s.log = l ++ es ∧ ∀ v, .resp v ∉ es

/-- A command of `OP` `op` begun with the record `l` has put its one response on the port, as the last entry of the record. -/
def AnsweredOnce (l : List Event) (op : BitVec 8) (t : State) : Prop :=
  ∃ w es, t.log = l ++ es ++ [.resp w] ∧ (∀ v, .resp v ∉ es) ∧ t.rspPort = some w ∧ w.extractLsb' 112 8 = op

/-- An operation that returned, in `P` after `ok` and in `F` after `fail`; none that was cut short. -/
def Progress.Returns (P F : State → Prop) : Progress → Prop
  | .ok s => P s
  | .fail s => F s
  | .halted _ => False

theorem Progress.Returns.andThen {P Q F : State → Prop} {p : Progress} {f : State → Progress} (hp : p.Returns P F)
    (hf : ∀ s, P s → (f s).Returns Q F) : (p.andThen f).Returns Q F := by
  cases p with
  | ok s => exact hf s hp
  | fail s => exact hp
  | halted s => exact hp

theorem Running.start {s : State} (hreset : s.resetAfter = none) (hanswers : .never ∉ s.replies) : Running s.log s :=
  ⟨hreset, hanswers, [], (List.append_nil _).symm, fun _ => List.not_mem_nil⟩

section
variable {l : List Event} {s : State}

/-- The record, the replies and the countdown are all that counts. -/
theorem Running.of_eq {t : State} (h : Running l s) (hreset : t.resetAfter = s.resetAfter) (hreplies : t.replies = s.replies)
    (hlog : t.log = s.log) : Running l t :=
  ⟨hreset.trans h.noReset, hreplies ▸ h.answers, hlog ▸ h.log⟩

theorem Running.logged (h : Running l s) {e : Event} (he : ∀ v, .resp v ≠ e) : Running l (s.logged e) := by
  obtain ⟨es, hlog, hes⟩ := h.log
  exact ⟨h.noReset, h.answers, es ++ [e], by simp [hlog], fun v => by simp [hes v, he v]⟩

theorem Running.tick (h : Running l s) : Running l s.tick := by
  rwa [State.tick_of_none h.noReset]

theorem Running.enterPhase (h : Running l s) (q : Phase) (r : Nat) : Running l (s.enterPhase q r) :=
  Running.logged (s := { s with phase := q }) (h.of_eq rfl rfl rfl) (by simp)

theorem Running.driveLine (h : Running l s) (r : Nat) (level : Bool) : Running l (s.driveLine r level) :=
  Running.logged (s := { s with latch := tableWrite false s.latch r level }) (h.of_eq rfl rfl rfl) (by simp)

theorem Running.withAccum (h : Running l s) (a : Accumulator) : Running l { s with accum := a } := h.of_eq rfl rfl rfl

theorem Running.withPending (h : Running l s) (row : Option Nat) : Running l { s with pendingRow := row } := h.of_eq rfl rfl rfl

theorem Running.byteAnswered (h : Running l s) (b : Byte) (a : Answer) : Running l (s.byteAnswered b a) := by
  have htail : Running l { s with replies := s.replies.tail, attempts := s.attempts + 1 } :=
    ⟨h.noReset, fun hnever => h.answers (List.mem_of_mem_tail hnever), h.log⟩
  exact (htail.logged (by simp)).tick

theorem Running.nextReply_ne_never (h : Running l s) : s.nextReply ≠ .never := by
  unfold State.nextReply
  split
  next hreplies => exact fun hnever => h.answers (by simp [hreplies, hnever])
  next => simp

/-! ### The transmission -/

theorem emit_running (h : Running l s) (b : Byte) : (emit b s).Returns (Running l) (Running l) := by
  rcases emit_cases b s with ⟨hdue, -⟩ | ⟨-, hnever, -⟩ | ⟨-, -, heq⟩ | ⟨-, -, heq⟩
  · simp [h.noReset] at hdue
  · exact absurd hnever h.nextReply_ne_never
  · rw [heq]; exact h.byteAnswered b .ok
  · rw [heq]; exact h.byteAnswered b .fail

theorem drain_running (n : Nat) (h : Running l s) : (drain n s).Returns (Running l) (Running l) := by
  induction n generalizing s with
  | zero => exact h
  | succ n ih => exact (emit_running (h.withAccum _) _).andThen fun _ => ih

theorem pushWalk_running (ks : List Cursor) (h : Running l s) : (pushWalk ks s).Returns (Running l) (Running l) := by
  induction ks generalizing s with
  | nil => exact h
  | cons k ks ih =>
    have hcursor : Running l { s with cursor := some k } := h.of_eq rfl rfl rfl
    exact (drain_running _ (hcursor.withAccum _)).andThen fun _ => ih

theorem flush_running (h : Running l s) : (flush s).Returns (Running l) (Running l) := by
  unfold flush
  split
  · exact emit_running (h.withAccum _) _
  · exact h

theorem shiftRow_running (h : Running l s) (r : Nat) : (shiftRow r s).Returns (Running l) (Running l) := by
  have hrow := (pushWalk_running (walk s.cfg r) ((h.enterPhase .shifting r).withAccum Accumulator.empty)).andThen
    fun _ => flush_running
  unfold shiftRow
  split <;> rename_i heq <;> rw [heq] at hrow
  · exact Running.of_eq hrow rfl rfl rfl
  · exact Running.of_eq hrow rfl rfl rfl
  · exact hrow

/-- A pulse never fails. -/
theorem pulse_running (h : Running l s) (r : Nat) {F : State → Prop} : (pulse r s).Returns (Running l) F := by
  have hhigh := (h.driveLine r true).tick
  simp only [pulse, State.resetDue_of_none h.noReset, State.resetDue_of_none hhigh.noReset]
  exact ((hhigh.driveLine r false).logged (by simp)).tick

theorem updateRows_running (rs : List Nat) (h : Running l s) : (updateRows rs s).Returns (Running l) (Running l) := by
  induction rs generalizing s with
  | nil => exact h
  | cons r rs ih =>
    have hshift := shiftRow_running h r
    unfold updateRows
    split <;> rename_i heq <;> rw [heq] at hshift
    · exact (pulse_running (Running.enterPhase hshift .latching r) r).andThen fun _ ht => ih (ht.enterPhase .idle r)
    · exact Running.enterPhase hshift .idle r
    · exact hshift

/-! ### The responses -/

theorem respond_answered (h : Running l s) (op : BitVec 8) (st : Status) (n : Nat) (d0 d1 d2 : Gray) :
    AnsweredOnce l op (respond op st n d0 d1 d2 s) := by
  obtain ⟨es, hlog, hes⟩ := h.log
  rw [respond_eq h.noReset, hlog]
  exact ⟨_, es, rfl, hes, rfl, rop_responseWord ..⟩

theorem raise_answered (h : Running l s) (op : BitVec 8) (e : Status) : AnsweredOnce l op (raise op e s) :=
  respond_answered h ..

theorem limitAndCommit_answered (h : Running l s) (op : BitVec 8) (cand : List (Nat × Gray)) :
    AnsweredOnce l op (limitAndCommit op cand s) := by
  have hcommit : Running l { s with gs := Memory.writeAll s.gs (limitPass s.cfg cand).1 } := h.of_eq rfl rfl rfl
  exact respond_answered hcommit ..

theorem setter_answered (h : Running l s) (op : BitVec 8) (inRange : Bool) (cand : List (Nat × Gray)) :
    AnsweredOnce l op (setter op inRange cand s) := by
  rcases setter_cases op inRange cand s with ⟨-, heq⟩ | ⟨-, heq⟩ <;> rw [heq]
  · exact raise_answered h ..
  · exact limitAndCommit_answered h ..

theorem commitPinOrder_answered (h : Running l s) (op : BitVec 8) (leds : List Nat) (o : PinOrder) :
    AnsweredOnce l op (commitPinOrder op leds o s) := by
  have hcommit : Running l { s with po := tableWriteAll (initialPinOrder s.cfg) s.po (leds.map fun led => (led, o)) } :=
    h.of_eq rfl rfl rfl
  exact respond_answered hcommit ..

theorem withLatchCtrl_answered (h : Running l s) (op : BitVec 8) {run : State → State} (hrun : AnsweredOnce l op (run s)) :
    AnsweredOnce l op (withLatchCtrl op run s) := by
  rcases withLatchCtrl_cases op run s with ⟨-, heq⟩ | ⟨-, heq⟩ <;> rw [heq]
  · exact hrun
  · exact raise_answered h ..

/-! ### The commands -/

theorem execGetChannel_answered (h : Running l s) (led c : Nat) :
    Ensures (AnsweredOnce l Opcode.getChannel.code) (execGetChannel led c s) := by
  simp only [execGetChannel, Ensures]
  split <;> exact respond_answered h ..

theorem execGetLed_answered (h : Running l s) (chip k : Nat) :
    Ensures (AnsweredOnce l Opcode.getLed.code) (execGetLed chip k s) := by
  simp only [execGetLed, Ensures]
  split <;> exact respond_answered h ..

theorem execSetPinOrder_answered (h : Running l s) (led p0 p1 p2 : Nat) :
    Ensures (AnsweredOnce l Opcode.setPinOrder.code) (execSetPinOrder led p0 p1 p2 s) := by
  simp only [execSetPinOrder, Ensures]
  split
  · split
    · exact commitPinOrder_answered h ..
    · exact raise_answered h ..
  · exact raise_answered h ..

theorem execSetPinOrderAll_answered (h : Running l s) (p0 p1 p2 : Nat) :
    Ensures (AnsweredOnce l Opcode.setPinOrderAll.code) (execSetPinOrderAll p0 p1 p2 s) := by
  simp only [execSetPinOrderAll, Ensures]
  split
  · exact commitPinOrder_answered h ..
  · exact raise_answered h ..

theorem execShiftRow_answered (h : Running l s) (r : Nat) :
    Ensures (AnsweredOnce l Opcode.shiftRow.code) (execShiftRow r s) := by
  simp only [execShiftRow, Ensures]
  split
  · have hshift := shiftRow_running (h.withPending none) r
    split <;> rename_i heq <;> rw [heq] at hshift
    · exact respond_answered ((Running.enterPhase hshift .idle r).withPending (some r)) ..
    · exact respond_answered (Running.enterPhase hshift .idle r) ..
    · exact hshift.elim
  · exact raise_answered h ..

theorem latchRow_answered (h : Running l s) (r : Nat) : AnsweredOnce l Opcode.latch.code (latchRow r s) := by
  unfold latchRow
  split
  · split
    · have hpulse := pulse_running (h.enterPhase .latching r) r (F := fun _ => False)
      split <;> rename_i heq <;> rw [heq] at hpulse
      · exact respond_answered ((Running.enterPhase hpulse .idle r).withPending none) ..
      · exact hpulse.elim
      · exact hpulse.elim
    · exact raise_answered h ..
  · exact raise_answered h ..

theorem updateAll_answered (h : Running l s) : AnsweredOnce l Opcode.update.code (updateAll s) := by
  have hrows := updateRows_running (rowSeq s.cfg) (h.withPending none)
  unfold updateAll
  split <;> rename_i heq <;> rw [heq] at hrows
  · exact respond_answered hrows ..
  · exact respond_answered hrows ..
  · exact hrows.elim

theorem exec_answered (h : Running l s) (i : Instr) : Ensures (AnsweredOnce l i.opcode.code) (exec i s) := by
  cases i with
  | setAll v => exact setter_answered h ..
  | setAllRgb r g b => exact setter_answered h ..
  | setLedMono led v => exact setter_answered h ..
  | setLedRgb led r g b => exact setter_answered h ..
  | setLedAppend led dr dg db => exact setter_answered h ..
  | setChannel f v => exact setter_answered h ..
  | getChannel led c => exact execGetChannel_answered h led c
  | getLed chip k => exact execGetLed_answered h chip k
  | enforceMaxCurrent => exact limitAndCommit_answered h ..
  | setPinOrder led p0 p1 p2 => exact execSetPinOrder_answered h led p0 p1 p2
  | setPinOrderAll p0 p1 p2 => exact execSetPinOrderAll_answered h p0 p1 p2
  | shiftRow r => exact execShiftRow_answered h r
  | latch r => exact withLatchCtrl_answered h _ (latchRow_answered h r)
  | update => exact withLatchCtrl_answered h _ (updateAll_answered h)

end

end Sys2Proof.Machine

namespace Sys2Proof.Proofs

open Sys2Proof.Machine

/-- Settles O8: the command runs without recording a response until it answers, and every path of it answers. -/
theorem everyCommandAnswersOnce : Obligations.EveryCommandAnswersOnce := by
  unfold Obligations.EveryCommandAnswersOnce
  intro i s t hreset hanswers hexec
  have hanswered := exec_answered (Running.start hreset hanswers) i
  rw [hexec] at hanswered
  exact hanswered

end Sys2Proof.Proofs

/-! SUPPORT. Proofs of the statements of 40_store.md: what a setter's commit and a pin-order commit leave in their tables, said once,
and what every command of the store's family does, in range and out of range. -/

namespace Sys2Proof.Machine

open Sys2Proof.Claims

/-! ### Several writes at distinct indices -/

section
variable {α : Type} [DecidableEq α] {d : α} {t : Table α} {kvs : List (Nat × α)}

theorem tableRead_writeAll_of_mem (hwf : tableWf d t = true) (hnd : (kvs.map Prod.fst).Nodup) {e : Nat × α} (he : e ∈ kvs) :
    tableRead d (tableWriteAll d t kvs) e.1 = e.2 := by
  rw [tableRead_writeAll hwf hnd]
  cases hfind : kvs.find? fun x => x.1 == e.1 with
  | none => exact absurd (List.find?_eq_none.mp hfind e he) (by simp)
  | some x =>
    have hkey : x.1 = e.1 := by simpa using List.find?_some hfind
    rw [List.inj_on_of_nodup_map hnd (List.mem_of_find?_eq_some hfind) he hkey]
    rfl

theorem tableRead_writeAll_of_notMem (hwf : tableWf d t = true) (hnd : (kvs.map Prod.fst).Nodup) {b : Nat}
    (hb : b ∉ kvs.map Prod.fst) : tableRead d (tableWriteAll d t kvs) b = tableRead d t b := by
  have hfind : kvs.find? (fun e => e.1 == b) = none :=
    List.find?_eq_none.mpr fun e he hkey => hb (List.mem_map.mpr ⟨e, he, by simpa using hkey⟩)
  rw [tableRead_writeAll hwf hnd, hfind]
  rfl

end

/-- The indices of values given index by index. -/
theorem keys_of_values {α : Type} (is : List Nat) (val : Nat → α) : (is.map fun i => (i, val i)).map Prod.fst = is := by
  rw [List.map_map]
  exact List.map_id is

/-! ### Values and the limiter (40_store.md R116, 41_current_limiter.md R140, R142) -/

theorem candidate_toNat {v : Nat} (hv : v ≤ 4095) : (candidate v).toNat = v :=
  Nat.mod_eq_of_lt (by omega)

theorem byColour_le {r g b n : Nat} (hr : r ≤ n) (hg : g ≤ n) (hb : b ≤ n) (c : Nat) : byColour r g b c ≤ n := by
  unfold byColour
  split
  · exact hr
  · split
    · exact hg
    · exact hb

theorem satAdd12_toNat (x : Gray) (d : Nat) : (satAdd12 x d).toNat = min 4095 (x.toNat + d) :=
  Nat.mod_eq_of_lt (by simp only [gsMax]; omega)

theorem limited_toNat_eq_effective (c : Config) (v : Gray) : (limited c v).toNat = effective c v.toNat := by
  cases hen : c.limitEn with
  | true => simp [limited_toNat hen, effective, hen]
  | false => simp [limited_off hen, effective, hen]

theorem clamps_iff {c : Config} {v : Gray} : clamps c v = true ↔ c.limitEn = true ∧ c.maxAllowed.toNat < v.toNat := by
  simp [clamps]

/-- The count of a limit pass, candidate by candidate (R142). -/
theorem limitPass_count (c : Config) (cand : List (Nat × Gray)) :
    (limitPass c cand).2 = (cand.map fun e => clampCount c e.2.toNat).sum := by
  induction cand with
  | nil => rfl
  | cons e cand ih =>
    simp only [limitPass] at ih ⊢
    simp only [List.countP_cons, List.map_cons, List.sum_cons, ih, clampCount, clamps_iff]
    omega

theorem limitPass_keys (c : Config) (cand : List (Nat × Gray)) : (limitPass c cand).1.map Prod.fst = cand.map Prod.fst := by
  simp [limitPass]

/-! ### Responses and commits with no reset coming (30_encoding.md R88, 40_store.md R100, R124, R126) -/

section
variable {s : State} (hs : NoReset s)
include hs

theorem respond_eq_answered (op : BitVec 8) (st : Status) (n : Nat) (d0 d1 d2 : Gray) :
    respond op st n d0 d1 d2 s = answered s (responseWord op st n d0 d1 d2) :=
  respond_eq hs ..

theorem raise_eq_raised (op : BitVec 8) (e : Status) : raise op e s = raised s op e :=
  respond_eq hs ..

/-- A setter that passes its check writes the effective value of each candidate to its cell, keeps every other cell, and answers the
number of clamped candidates (R100). -/
theorem setter_spec (hwf : Memory.wf s.gs = true) (op : BitVec 8) {inRange : Bool} (hok : inRange = true)
    {cand : List (Nat × Gray)} (hnd : (cand.map Prod.fst).Nodup) :
    ∃ m : Memory, m.wf = true ∧
      setter op inRange cand s = answered { s with gs := m }
        (responseWord op .ok (cand.map fun e => clampCount s.cfg e.2.toNat).sum 0 0 0) ∧
      (∀ e ∈ cand, cell m e.1 = effective s.cfg e.2.toNat) ∧
      ∀ f, f ∉ cand.map Prod.fst → m.read f = Memory.read s.gs f := by
  have hnd' : ((limitPass s.cfg cand).1.map Prod.fst).Nodup := by rwa [limitPass_keys]
  refine ⟨Memory.writeAll s.gs (limitPass s.cfg cand).1, Memory.wf_writeAll hwf _, ?_, fun e he => ?_, fun f hf => ?_⟩
  · rw [setter, if_pos hok, limitAndCommit, limitPass_count]
    exact respond_eq_answered (by exact hs) ..
  · have hmem : (e.1, limited s.cfg e.2) ∈ (limitPass s.cfg cand).1 := List.mem_map_of_mem he
    exact (congrArg BitVec.toNat (tableRead_writeAll_of_mem hwf hnd' hmem)).trans (limited_toNat_eq_effective ..)
  · exact tableRead_writeAll_of_notMem hwf hnd' (by rwa [limitPass_keys])

/-- A pin-order commit gives the entry to each LED named and keeps every other entry (R124, R126). -/
theorem commitPinOrder_spec (hwf : tableWf (initialPinOrder s.cfg) s.po = true) (op : BitVec 8) {leds : List Nat}
    (hnd : leds.Nodup) (o : PinOrder) :
    ∃ po, commitPinOrder op leds o s = answered { s with po := po } (responseWord op .ok 0 0 0 0) ∧
      tableWf (initialPinOrder s.cfg) po = true ∧ (∀ led ∈ leds, pinOrderOf s.cfg po led = o) ∧
      ∀ q, q ∉ leds → pinOrderOf s.cfg po q = pinOrderOf s.cfg s.po q := by
  have hkeys : (leds.map fun led => (led, o)).map Prod.fst = leds := keys_of_values ..
  have hnd' : ((leds.map fun led => (led, o)).map Prod.fst).Nodup := by rwa [hkeys]
  refine ⟨tableWriteAll (initialPinOrder s.cfg) s.po (leds.map fun led => (led, o)), commitPinOrder_eq hs op leds o,
    tableWf_writeAll hwf _, fun led hled => ?_, fun q hq => ?_⟩
  · exact tableRead_writeAll_of_mem hwf hnd' (e := (led, o)) (List.mem_map_of_mem hled)
  · exact tableRead_writeAll_of_notMem hwf hnd' (by rwa [hkeys])

end

/-! ### The cells of an LED and of the whole store (20_memory.md R60 to R62) -/

theorem cellIndex_of_led (led c : Nat) : cellIndex (led / 8) (led % 8) c = 3 * led + c := by
  simp only [cellIndex]
  omega

theorem cellIndex_lt {n ch l c : Nat} (hch : ch < n) (hl : l < 8) (hc : c < 3) : cellIndex ch l c < 24 * n := by
  simp only [cellIndex]
  omega

theorem ledCandidates_keys (led : Nat) (r g b : Gray) :
    (ledCandidates led r g b).map Prod.fst = [3 * led, 3 * led + 1, 3 * led + 2] := by
  simp [ledCandidates, ledCells, chipOfLed, ledInChip, cellIndex_of_led]

/-- A sum over the cells of `n` LEDs of what depends on the colour only. -/
theorem sum_range_byColour (x : Nat → Nat) (n : Nat) :
    ((List.range (3 * n)).map fun f => x (colourOfChannel f)).sum = n * (x 0 + x 1 + x 2) := by
  induction n with
  | zero => simp
  | succ n ih =>
    have h0 : colourOfChannel (3 * n) = 0 := by simp [colourOfChannel]
    have h1 : colourOfChannel (3 * n + 1) = 1 := by simp [colourOfChannel]
    have h2 : colourOfChannel (3 * n + 2) = 2 := by simp [colourOfChannel]
    rw [show 3 * (n + 1) = 3 * n + 1 + 1 + 1 from rfl]
    simp only [List.sum_range_succ, ih, h0, h1, h2]
    ring

section
variable {s : State} (hs : NoReset s) (hwf : Memory.wf s.gs = true)
include hs hwf

/-- A setter of one LED (R108, R112, R114). -/
theorem setter_led (op : BitVec 8) {inRange : Bool} (hok : inRange = true) (led : Nat) (r g b : Gray) :
    ∃ m : Memory, m.wf = true ∧
      setter op inRange (ledCandidates led r g b) s = answered { s with gs := m }
        (responseWord op .ok
          (clampCount s.cfg r.toNat + clampCount s.cfg g.toNat + clampCount s.cfg b.toNat) 0 0 0) ∧
      LedSet m s.gs led (effective s.cfg r.toNat) (effective s.cfg g.toNat) (effective s.cfg b.toNat) := by
  obtain ⟨m, hm, hexec, hnew, hold⟩ := setter_spec hs hwf op hok (cand := ledCandidates led r g b)
    (by simp [ledCandidates_keys])
  refine ⟨m, hm, ?_, hnew _ (.head _), hnew _ (.tail _ (.head _)), hnew _ (.tail _ (.tail _ (.head _))),
    fun f hf => hold f ?_⟩
  · simpa [ledCandidates, ledCells, add_assoc] using hexec
  · simp only [ledCandidates_keys, List.mem_cons, List.not_mem_nil, or_false]
    omega

/-- A setter of every cell (R101, R104). -/
theorem setter_allCells (op : BitVec 8) {inRange : Bool} (hok : inRange = true) (val : Nat → Gray) :
    ∃ m : Memory, m.wf = true ∧
      setter op inRange ((allCells s.cfg).map fun f => (f, val f)) s = answered { s with gs := m }
        (responseWord op .ok ((List.range (24 * chips s.cfg)).map fun f => clampCount s.cfg (val f).toNat).sum 0 0 0) ∧
      (∀ f < 24 * chips s.cfg, cell m f = effective s.cfg (val f).toNat) ∧
      ∀ f ≥ 24 * chips s.cfg, m.read f = Memory.read s.gs f := by
  obtain ⟨m, hm, hexec, hnew, hold⟩ := setter_spec hs hwf op hok (cand := (allCells s.cfg).map fun f => (f, val f))
    (by rw [keys_of_values]; exact List.nodup_range)
  refine ⟨m, hm, ?_, fun f hf => ?_, fun f hf => hold f ?_⟩
  · rw [hexec, List.map_map]
    rfl
  · exact hnew (f, val f) (List.mem_map_of_mem (List.mem_range.mpr hf))
  · rw [keys_of_values]
    exact mt List.mem_range.mp (Nat.not_lt.mpr hf)

end

/-! ### The range checks (60_exceptions.md R201) -/

theorem valueInRange_iff {v : Nat} : valueInRange v = true ↔ v ≤ 4095 := decide_eq_true_iff
theorem channelInRange_iff {c : Config} {f : Nat} : channelInRange c f = true ↔ f < 24 * chips c := decide_eq_true_iff
theorem chipInRange_iff {c : Config} {ch : Nat} : chipInRange c ch = true ↔ ch < chips c := decide_eq_true_iff
theorem rowInRange_iff {c : Config} {r : Nat} : rowInRange c r = true ↔ r < rows c := decide_eq_true_iff

/-- The check of SET_LED_RGB and SET_LED_APPEND (40_store.md R112, R114). -/
theorem ledAndValuesInRange {c : Config} {led r g b : Nat} (hled : led < 8 * chips c) (hr : r ≤ 4095) (hg : g ≤ 4095)
    (hb : b ≤ 4095) : (ledInRange c led && valueInRange r && valueInRange g && valueInRange b) = true := by
  simp only [Bool.and_eq_true, ledInRange_iff, valueInRange_iff]
  exact ⟨⟨⟨hled, hr⟩, hg⟩, hb⟩

/-- The slots of an entry are the permutations of 0, 1, 2 (30_encoding.md R86). -/
theorem isSome_ofSlots?_iff_perm {p0 p1 p2 : Nat} :
    (PinOrder.ofSlots? p0 p1 p2).isSome = true ↔ [p0, p1, p2].Perm [0, 1, 2] := by
  constructor
  · intro hsome
    obtain ⟨o, ho⟩ := Option.isSome_iff_exists.mp hsome
    obtain ⟨rfl, rfl, rfl⟩ := slots_of_ofSlots? ho
    cases o <;> decide
  · intro hperm
    have hlt : ∀ p ∈ [p0, p1, p2], p < 3 := fun p hp => by
      have := hperm.mem_iff.mp hp
      simp only [List.mem_cons, List.not_mem_nil, or_false] at this
      omega
    have hall : ∀ q0 < 3, ∀ q1 < 3, ∀ q2 < 3,
        [q0, q1, q2].Perm [0, 1, 2] → (PinOrder.ofSlots? q0 q1 q2).isSome = true := by decide
    exact hall p0 (hlt p0 (by simp)) p1 (hlt p1 (by simp)) p2 (hlt p2 (by simp)) hperm

/-- The permutation code of three slots as a number (R86, R89). -/
theorem aux_slotsCode : ∀ p0 < 4, ∀ p1 < 4, ∀ p2 < 4,
    0#2 ++ slotsCode p0 p1 p2 = BitVec.ofNat 8 (p0 + 4 * p1 + 16 * p2) := by
  decide

/-! ### Commands out of range and commands of the store's family -/

theorem setter_of_notInRange {inRange : Bool} (h : ¬ inRange = true) (op : BitVec 8) (cand : List (Nat × Gray)) (s : State) :
    setter op inRange cand s = raise op .outOfRange s :=
  if_neg h

theorem withLatchCtrl_of_has {s : State} (h : s.cfg.hasLatchCtrl = true) (op : BitVec 8) (run : State → State) :
    withLatchCtrl op run s = run s :=
  if_pos h

theorem ofSlots?_eq_none {p0 p1 p2 : Nat} (h : ¬ [p0, p1, p2].Perm [0, 1, 2]) : PinOrder.ofSlots? p0 p1 p2 = none :=
  Option.not_isSome_iff_eq_none.mp (mt isSome_ofSlots?_iff_perm.mp h)

theorem execSetPinOrder_of_inRange {led p0 p1 p2 : Nat} {o : PinOrder} {s : State}
    (ho : PinOrder.ofSlots? p0 p1 p2 = some o) (hled : led < 8 * chips s.cfg) :
    execSetPinOrder led p0 p1 p2 s = .next (commitPinOrder Opcode.setPinOrder.code [led] o s) := by
  simp [execSetPinOrder, ho, ledInRange_iff.mpr hled]

theorem execSetPinOrderAll_of_perm {p0 p1 p2 : Nat} {o : PinOrder} (ho : PinOrder.ofSlots? p0 p1 p2 = some o) (s : State) :
    execSetPinOrderAll p0 p1 p2 s =
      .next (commitPinOrder Opcode.setPinOrderAll.code (List.range (totalLeds s.cfg)) o s) := by
  simp [execSetPinOrderAll, ho]

theorem execSetPinOrder_of_outOfRange {led p0 p1 p2 : Nat} {s : State}
    (h : led ≥ 8 * chips s.cfg ∨ ¬ [p0, p1, p2].Perm [0, 1, 2]) :
    execSetPinOrder led p0 p1 p2 s = .next (raise Opcode.setPinOrder.code .outOfRange s) := by
  unfold execSetPinOrder
  split
  · rename_i o ho
    have hperm := isSome_ofSlots?_iff_perm.mp (Option.isSome_of_eq_some ho)
    have hled := h.resolve_right (not_not_intro hperm)
    rw [if_neg (mt ledInRange_iff.mp (Nat.not_lt.mpr hled))]
  · rfl

theorem execSetPinOrderAll_of_notPerm {p0 p1 p2 : Nat} (h : ¬ [p0, p1, p2].Perm [0, 1, 2]) (s : State) :
    execSetPinOrderAll p0 p1 p2 s = .next (raise Opcode.setPinOrderAll.code .outOfRange s) := by
  simp [execSetPinOrderAll, ofSlots?_eq_none h]

/-- A command whose operands fail a check of R201 raises OUT_OF_RANGE, whatever the state (60_exceptions.md R201, R208). -/
theorem exec_of_outOfRange {i : Instr} {s : State} (hctrl : needsLatchCtrl i = true → s.cfg.hasLatchCtrl = true)
    (h : outOfRange (chips s.cfg) (rows s.cfg) i) : exec i s = .next (raise i.opcode.code .outOfRange s) := by
  cases i with
  | setAll _ | setAllRgb _ _ _ | setLedMono _ _ | setLedRgb _ _ _ _ | setLedAppend _ _ _ _ | setChannel _ _ =>
    refine congrArg _ (setter_of_notInRange ?_ ..)
    simp only [outOfRange, Bool.and_eq_true, ledInRange_iff, channelInRange_iff, valueInRange_iff] at h ⊢
    omega
  | getChannel _ _ | getLed _ _ =>
    refine congrArg _ (if_neg ?_)
    simp only [outOfRange, Bool.and_eq_true, ledInRange_iff, chipInRange_iff, decide_eq_true_eq] at h ⊢
    omega
  | setPinOrder led p0 p1 p2 => exact execSetPinOrder_of_outOfRange h
  | setPinOrderAll p0 p1 p2 => exact execSetPinOrderAll_of_notPerm h s
  | shiftRow r => exact congrArg _ (if_neg (mt rowInRange_iff.mp (Nat.not_lt.mpr h)))
  | latch r =>
    have hrow : latchRow r s = raise Opcode.latch.code .outOfRange s := if_neg (mt rowInRange_iff.mp (Nat.not_lt.mpr h))
    exact congrArg _ ((withLatchCtrl_of_has (hctrl rfl) ..).trans hrow)
  | enforceMaxCurrent | update => exact h.elim

/-- From `s` to `t` a response was put on the port and recorded, and nothing but the two tables may differ besides. -/
def OnlyAnswers (s t : State) : Prop :=
  ∃ (gs : Table Gray) (po : Table PinOrder) (w : Word), t = answered { s with gs := gs, po := po } w

section
variable {s : State} (hs : NoReset s)
include hs

theorem respond_onlyAnswers (op : BitVec 8) (st : Status) (n : Nat) (d0 d1 d2 : Gray) (gs : Table Gray) (po : Table PinOrder) :
    OnlyAnswers s (respond op st n d0 d1 d2 { s with gs := gs, po := po }) :=
  ⟨gs, po, _, respond_eq_answered (by exact hs) ..⟩

theorem setter_onlyAnswers (op : BitVec 8) (inRange : Bool) (cand : List (Nat × Gray)) :
    OnlyAnswers s (setter op inRange cand s) := by
  rcases setter_cases op inRange cand s with ⟨-, h⟩ | ⟨-, h⟩ <;> rw [h] <;> exact respond_onlyAnswers hs ..

theorem commitPinOrder_onlyAnswers (op : BitVec 8) (leds : List Nat) (o : PinOrder) :
    OnlyAnswers s (commitPinOrder op leds o s) :=
  respond_onlyAnswers hs ..

theorem exec_onlyAnswers {i : Instr} (hi : storeFamily i = true) : Ensures (OnlyAnswers s) (exec i s) := by
  cases i with
  | setAll _ | setAllRgb _ _ _ | setLedMono _ _ | setLedRgb _ _ _ _ | setLedAppend _ _ _ _ | setChannel _ _ =>
    exact setter_onlyAnswers hs ..
  | getChannel _ _ | getLed _ _ =>
    simp only [exec, execGetChannel, execGetLed, Ensures]
    split <;> exact respond_onlyAnswers hs ..
  | setPinOrder led p0 p1 p2 =>
    simp only [exec, execSetPinOrder, Ensures]
    split
    · split
      · exact commitPinOrder_onlyAnswers hs ..
      · exact respond_onlyAnswers hs ..
    · exact respond_onlyAnswers hs ..
  | setPinOrderAll p0 p1 p2 =>
    simp only [exec, execSetPinOrderAll, Ensures]
    split
    · exact commitPinOrder_onlyAnswers hs ..
    · exact respond_onlyAnswers hs ..
  | enforceMaxCurrent | shiftRow _ | latch _ | update => cases hi

end

/-! ### The pin orders are not read (40_store.md R128) -/

section
variable (s : State) (po : Table PinOrder)

theorem respond_withPo (op : BitVec 8) (st : Status) (n : Nat) (d0 d1 d2 : Gray) :
    respond op st n d0 d1 d2 { s with po := po } = { respond op st n d0 d1 d2 s with po := po } := by
  have hdue : ({ s with po := po } : State).resetDue = s.resetDue := rfl
  unfold respond
  rw [hdue]
  split <;> rfl

theorem setter_withPo (op : BitVec 8) (inRange : Bool) (cand : List (Nat × Gray)) :
    setter op inRange cand { s with po := po } = { setter op inRange cand s with po := po } := by
  unfold setter
  split
  · exact respond_withPo { s with gs := Memory.writeAll s.gs (limitPass s.cfg cand).1 } po ..
  · exact respond_withPo ..

/-- A setter or getter does the same with another pin-order table, and leaves that table as it was. -/
theorem exec_withPo {i : Instr} (hi : setterOrGetter i = true) :
    Ensures (fun t => exec i { s with po := po } = .next { t with po := po }) (exec i s) := by
  cases i with
  | setAll _ | setAllRgb _ _ _ | setLedMono _ _ | setLedRgb _ _ _ _ | setLedAppend _ _ _ _ | setChannel _ _ =>
    exact congrArg _ (setter_withPo ..)
  | getChannel _ _ | getLed _ _ =>
    simp only [exec, execGetChannel, execGetLed, Ensures]
    split <;> exact congrArg _ (respond_withPo ..)
  | setPinOrder _ _ _ _ | setPinOrderAll _ _ _ | enforceMaxCurrent | shiftRow _ | latch _ | update => cases hi

end

end Sys2Proof.Machine

namespace Sys2Proof.Proofs

open Sys2Proof.Machine Sys2Proof.Claims

/-- Settles O16: the sum is at most 4095, so its 12 bits are the sum. -/
theorem saturatingAddIsExact : Obligations.SaturatingAddIsExact := by
  unfold Obligations.SaturatingAddIsExact
  exact fun x d _ => satAdd12_toNat x d

/-- Settles O30: each check of R201 is the model's, and a raise with no reset coming is a response only. -/
theorem outOfRangeChangesNothing : Obligations.OutOfRangeChangesNothing := by
  unfold Obligations.OutOfRangeChangesNothing
  intro i s hs hctrl h
  rw [exec_of_outOfRange hctrl h, raise_eq_raised hs]

/-- Settles O17: a commit of the same candidate to every cell, clamped for each cell or for none. -/
theorem setAllWritesEveryCell : Obligations.SetAllWritesEveryCell := by
  unfold Obligations.SetAllWritesEveryCell
  refine fun v s hs hwf => ⟨rfl, fun hv => ?_, fun hv => outOfRangeChangesNothing (.setAll v) s hs nofun hv⟩
  obtain ⟨m, hm, hexec, hnew, hold⟩ := setter_allCells hs hwf 0x01 (valueInRange_iff.mpr hv) fun _ => candidate v
  simp only [candidate_toNat hv, List.map_const', List.length_range, List.sum_replicate, smul_eq_mul] at hexec hnew
  exact ⟨m, hm, congrArg _ hexec, hnew, hold⟩

/-- Settles O18: each cell's candidate is the component of its colour, so each LED adds the three components' clamps. -/
theorem setAllRgbWritesEveryLed : Obligations.SetAllRgbWritesEveryLed := by
  unfold Obligations.SetAllRgbWritesEveryLed
  refine fun r g b s hs hwf => ⟨rfl, fun hv => ?_, fun hv => outOfRangeChangesNothing (.setAllRgb r g b) s hs nofun hv⟩
  obtain ⟨hr, hg, hb⟩ := hv
  have hok : (valueInRange r && valueInRange g && valueInRange b) = true := by
    simp only [Bool.and_eq_true, valueInRange_iff]
    exact ⟨⟨hr, hg⟩, hb⟩
  have hcand (c : Nat) : (candidate (byColour r g b c)).toNat = byColour r g b c :=
    candidate_toNat (byColour_le hr hg hb c)
  obtain ⟨m, hm, hexec, hnew, hold⟩ := setter_allCells hs hwf 0x02 hok fun f => candidate (byColour r g b (colourOfChannel f))
  have hsum : ((List.range (24 * chips s.cfg)).map fun f => clampCount s.cfg (byColour r g b (colourOfChannel f))).sum =
      8 * chips s.cfg * (clampCount s.cfg r + clampCount s.cfg g + clampCount s.cfg b) := by
    rw [show 24 * chips s.cfg = 3 * (8 * chips s.cfg) by omega]
    exact sum_range_byColour (fun c => clampCount s.cfg (byColour r g b c)) _
  simp only [hcand, hsum] at hexec hnew
  have hcell {ch l c : Nat} (hch : ch < chips s.cfg) (hl : l < 8) (hc : c < 3) :
      cell m (cellIndex ch l c) = effective s.cfg (byColour r g b c) := by
    rw [hnew _ (cellIndex_lt hch hl hc), colourOfChannel_cellIndex ch l hc]
  exact ⟨m, hm, congrArg _ hexec, fun ch hch l hl =>
    ⟨hcell hch hl (by decide), hcell hch hl (by decide), hcell hch hl (by decide)⟩, hold⟩

/-- Settles O19: one LED's candidates, all three the same value. -/
theorem setLedMonoWritesOneLed : Obligations.SetLedMonoWritesOneLed := by
  unfold Obligations.SetLedMonoWritesOneLed
  refine fun led v s hs hwf => ⟨rfl, fun ⟨hled, hv⟩ => ?_,
    fun h => outOfRangeChangesNothing (.setLedMono led v) s hs nofun h⟩
  have hok : (ledInRange s.cfg led && valueInRange v) = true := by
    simp only [Bool.and_eq_true, ledInRange_iff, valueInRange_iff]
    exact ⟨hled, hv⟩
  obtain ⟨m, hm, hexec, hcells⟩ := setter_led hs hwf 0x03 hok led (candidate v) (candidate v) (candidate v)
  have hcount : clampCount s.cfg v + clampCount s.cfg v + clampCount s.cfg v = 3 * clampCount s.cfg v := by omega
  rw [candidate_toNat hv] at hexec hcells
  rw [hcount] at hexec
  exact ⟨m, hm, congrArg _ hexec, hcells⟩

/-- Settles O20: one LED's candidates are the three components. -/
theorem setLedRgbWritesOneLed : Obligations.SetLedRgbWritesOneLed := by
  unfold Obligations.SetLedRgbWritesOneLed
  refine fun led r g b s hs hwf => ⟨rfl, fun ⟨hled, hr, hg, hb⟩ => ?_,
    fun h => outOfRangeChangesNothing (.setLedRgb led r g b) s hs nofun h⟩
  obtain ⟨m, hm, hexec, hcells⟩ := setter_led hs hwf 0x04 (ledAndValuesInRange hled hr hg hb) led
    (candidate r) (candidate g) (candidate b)
  rw [candidate_toNat hr, candidate_toNat hg, candidate_toNat hb] at hexec hcells
  exact ⟨m, hm, congrArg _ hexec, hcells⟩

/-- Settles O21: one LED's candidates are the saturated sums, and the limit comes after the sum. -/
theorem setLedAppendAddsToOneLed : Obligations.SetLedAppendAddsToOneLed := by
  unfold Obligations.SetLedAppendAddsToOneLed
  refine fun led dr dg db s hs hwf => ⟨rfl, fun ⟨hled, hr, hg, hb⟩ => ?_,
    fun h => outOfRangeChangesNothing (.setLedAppend led dr dg db) s hs nofun h⟩
  obtain ⟨m, hm, hexec, hcells⟩ := setter_led hs hwf 0x05 (ledAndValuesInRange hled hr hg hb) led
    (satAdd12 (Memory.read s.gs (cellIndex (led / 8) (led % 8) 0)) dr)
    (satAdd12 (Memory.read s.gs (cellIndex (led / 8) (led % 8) 1)) dg)
    (satAdd12 (Memory.read s.gs (cellIndex (led / 8) (led % 8) 2)) db)
  simp only [satAdd12_toNat] at hexec hcells
  exact ⟨m, hm, congrArg _ hexec, hcells⟩

/-- Settles O22: a commit of one candidate. -/
theorem setChannelWritesOneCell : Obligations.SetChannelWritesOneCell := by
  unfold Obligations.SetChannelWritesOneCell
  refine fun f v s hs hwf => ⟨rfl, fun ⟨hf, hv⟩ => ?_, fun h => outOfRangeChangesNothing (.setChannel f v) s hs nofun h⟩
  have hok : (channelInRange s.cfg f && valueInRange v) = true := by
    simp only [Bool.and_eq_true, channelInRange_iff, valueInRange_iff]
    exact ⟨hf, hv⟩
  obtain ⟨m, hm, hexec, hnew, hold⟩ := setter_spec hs hwf 0x06 hok (cand := [(f, candidate v)]) (by simp)
  have hcell := hnew _ (.head _)
  simp only [List.map_cons, List.map_nil, List.sum_singleton, List.mem_singleton, candidate_toNat hv] at hexec hcell hold
  exact ⟨m, hm, congrArg _ hexec, hcell, hold⟩

/-- Settles O23: in range the response carries the cell. -/
theorem getChannelReadsOneCell : Obligations.GetChannelReadsOneCell := by
  unfold Obligations.GetChannelReadsOneCell
  refine fun led c s hs => ⟨rfl, fun h => ?_, fun h => outOfRangeChangesNothing (.getChannel led c) s hs nofun h⟩
  have hok : (ledInRange s.cfg led && decide (c < 3)) = true := by
    simp only [Bool.and_eq_true, ledInRange_iff, decide_eq_true_eq]
    exact h
  exact congrArg _ ((if_pos hok).trans (respond_eq_answered hs ..))

/-- Settles O24: in range the response carries the LED's three cells. -/
theorem getLedReadsThreeCells : Obligations.GetLedReadsThreeCells := by
  unfold Obligations.GetLedReadsThreeCells
  refine fun chip l s hs => ⟨rfl, fun h => ?_, fun h => outOfRangeChangesNothing (.getLed chip l) s hs nofun h⟩
  have hok : (chipInRange s.cfg chip && decide (l < 8)) = true := by
    simp only [Bool.and_eq_true, chipInRange_iff, decide_eq_true_eq]
    exact h
  exact congrArg _ ((if_pos hok).trans (respond_eq_answered hs ..))

/-- Settles O25: SET_CHANNEL leaves the effective value in the cell that GET_CHANNEL reads. -/
theorem setChannelThenGetChannel : Obligations.SetChannelThenGetChannel := by
  unfold Obligations.SetChannelThenGetChannel
  intro f v s hs hwf hf hv
  obtain ⟨-, hset, -⟩ := setChannelWritesOneCell f v s hs hwf
  obtain ⟨m, -, hexec, hnew, -⟩ := hset ⟨hf, hv⟩
  obtain ⟨-, hget, -⟩ := getChannelReadsOneCell (f / 3) (f % 3) (answered { s with gs := m } _) hs
  have hcell : cellIndex (f / 3 / 8) (f / 3 % 8) (f % 3) = f := by
    rw [cellIndex_of_led, Nat.div_add_mod]
  have hled : f / 3 < 8 * chips s.cfg := by omega
  refine ⟨_, _, hexec, hget ⟨hled, Nat.mod_lt f (by decide)⟩, _, ?_, rfl⟩
  rw [hcell]
  exact hnew

/-- Settles O26: a commit of one LED's entry. -/
theorem setPinOrderWritesOneLed : Obligations.SetPinOrderWritesOneLed := by
  unfold Obligations.SetPinOrderWritesOneLed
  refine fun led p0 p1 p2 s hs hwf h0 h1 h2 => ⟨?_, fun ⟨hled, hperm⟩ => ?_,
    fun h => outOfRangeChangesNothing (.setPinOrder led p0 p1 p2) s hs nofun h⟩
  · exact congrArg (fun aux => word 0x0A aux led 0 0 0) (aux_slotsCode p0 h0 p1 h1 p2 h2)
  · obtain ⟨o, ho⟩ := Option.isSome_iff_exists.mp (isSome_ofSlots?_iff_perm.mpr hperm)
    obtain ⟨hr, hg, hb⟩ := slots_of_ofSlots? ho
    obtain ⟨po, hcommit, hpo, hnew, hold⟩ := commitPinOrder_spec hs hwf 0x0A (List.nodup_singleton led) o
    exact ⟨po, o, (execSetPinOrder_of_inRange ho hled).trans (congrArg _ hcommit), hr, hg, hb, hpo, hnew led (.head _),
      fun q hq => hold q (by simpa using hq)⟩

/-- Settles O27: a commit of the same entry for every LED of the chain. -/
theorem setPinOrderAllWritesEveryLed : Obligations.SetPinOrderAllWritesEveryLed := by
  unfold Obligations.SetPinOrderAllWritesEveryLed
  refine fun p0 p1 p2 s hs hwf h0 h1 h2 => ⟨?_, fun hperm => ?_,
    fun h => outOfRangeChangesNothing (.setPinOrderAll p0 p1 p2) s hs nofun h⟩
  · exact congrArg (fun aux => word 0x0B aux 0 0 0 0) (aux_slotsCode p0 h0 p1 h1 p2 h2)
  · obtain ⟨o, ho⟩ := Option.isSome_iff_exists.mp (isSome_ofSlots?_iff_perm.mpr hperm)
    obtain ⟨hr, hg, hb⟩ := slots_of_ofSlots? ho
    obtain ⟨po, hcommit, hpo, hnew, hold⟩ := commitPinOrder_spec hs hwf 0x0B (List.nodup_range (n := totalLeds s.cfg)) o
    exact ⟨po, o, (execSetPinOrderAll_of_perm ho s).trans (congrArg _ hcommit), hr, hg, hb, hpo,
      fun led hled => hnew led (List.mem_range.mpr hled), fun q hq => hold q (mt List.mem_range.mp (Nat.not_lt.mpr hq))⟩

/-- Settles O28: no operation of a setter or getter reads the table. -/
theorem settersAndGettersIgnorePinOrder : Obligations.SettersAndGettersIgnorePinOrder := by
  unfold Obligations.SettersAndGettersIgnorePinOrder
  intro i s t po hi hexec
  have h := exec_withPo s po hi
  rw [hexec] at h
  exact h

/-- Settles O29: the command writes its tables and answers. -/
theorem storeCommandsLeaveTheSequencerAlone : Obligations.StoreCommandsLeaveTheSequencerAlone := by
  unfold Obligations.StoreCommandsLeaveTheSequencerAlone
  intro i s hi hs
  obtain ⟨t, hexec⟩ := exec_next i s
  have h := exec_onlyAnswers hs hi
  rw [hexec] at h
  obtain ⟨gs, po, w, rfl⟩ := h
  exact ⟨_, w, hexec, rfl, rfl, rfl, rfl, rfl, rfl, rfl, rfl⟩

end Sys2Proof.Proofs

/-! SUPPORT. Proofs of the statements of 41_current_limiter.md: a step changes the store only by committing limited candidates
(`CommitsLimited`), and a store within the limit is one that the limit pass leaves as it is. -/

namespace Sys2Proof.Machine

open Sys2Proof.Claims

/-! ### The limit on the entries of the store and on its cells (41_current_limiter.md R148) -/

theorem tableRead_eq_or_mem {α : Type} (d : α) (t : Table α) (a : Nat) : tableRead d t a = d ∨ (a, tableRead d t a) ∈ t := by
  induction t with
  | nil => exact .inl rfl
  | cons e t ih =>
    by_cases ha : a = e.1
    · exact .inr (by simp [tableRead, ha])
    · simp only [tableRead, if_neg ha]
      exact ih.imp_right (List.mem_cons_of_mem e)

theorem withinLimit_iff {s : State} :
    withinLimit s = true ↔ (s.cfg.limitEn = true → ∀ e ∈ s.gs, e.2.toNat ≤ s.cfg.maxAllowed.toNat) := by
  cases hon : s.cfg.limitEn <;> simp [withinLimit, hon]

/-- A bound on the listed cells is one on every cell, for an unlisted cell reads 0 (10_state.md R45). -/
theorem withinLimit_cell_le {s : State} (h : withinLimit s = true) (hon : s.cfg.limitEn = true) (f : Nat) :
    cell s.gs f ≤ s.cfg.maxAllowed.toNat := by
  rcases tableRead_eq_or_mem Memory.unlisted s.gs f with hzero | hlisted
  · have hcell : cell s.gs f = 0 := congrArg BitVec.toNat hzero
    omega
  · exact withinLimit_iff.mp h hon _ hlisted

theorem effective_of_le {c : Config} {v : Nat} (h : c.limitEn = true → v ≤ c.maxAllowed.toNat) : effective c v = v := by
  unfold effective
  split
  · exact Nat.min_eq_left (h ‹_›)
  · rfl

theorem clampCount_of_le {c : Config} {v : Nat} (h : c.limitEn = true → v ≤ c.maxAllowed.toNat) : clampCount c v = 0 :=
  if_neg fun hclamped => Nat.not_lt.mpr (h hclamped.1) hclamped.2

theorem limitPass_values (c : Config) (cand : List (Nat × Gray)) :
    (limitPass c cand).1.map (fun e => e.2.toNat) = cand.map fun e => effective c e.2.toNat := by
  simp [limitPass, limited_toNat_eq_effective]

/-! ### What a command does to the store (40_store.md R100, 41_current_limiter.md R148) -/

/-- From `s` to `t` the store took some candidates, all of them limited; none where it is as it was. -/
def CommitsLimited (s t : State) : Prop :=
  ∃ cand, t.gs = Memory.writeAll s.gs (limitPass s.cfg cand).1

theorem CommitsLimited.of_gs_eq {s t : State} (h : t.gs = s.gs) : CommitsLimited s t := ⟨[], h⟩

/-- Limited candidates leave a store within the limit within it. -/
theorem CommitsLimited.withinLimit {s t : State} (h : CommitsLimited s t) (hcfg : t.cfg = s.cfg) (hs : withinLimit s = true) :
    withinLimit t = true := by
  obtain ⟨cand, hgs⟩ := h
  rw [withinLimit_iff, hcfg, hgs]
  intro hon e he
  rcases tableWriteAll_mem he with hnew | hold
  · obtain ⟨x, -, rfl⟩ := List.mem_map.mp hnew
    exact limited_le hon x.2
  · exact withinLimit_iff.mp hs hon e hold

section
variable (s : State)

theorem respond_commitsLimited (op : BitVec 8) (st : Status) (n : Nat) (d0 d1 d2 : Gray) :
    CommitsLimited s (respond op st n d0 d1 d2 s) := .of_gs_eq (respond_gs ..)

theorem limitAndCommit_commitsLimited (op : BitVec 8) (cand : List (Nat × Gray)) :
    CommitsLimited s (limitAndCommit op cand s) := ⟨cand, respond_gs ..⟩

theorem setter_commitsLimited (op : BitVec 8) (inRange : Bool) (cand : List (Nat × Gray)) :
    CommitsLimited s (setter op inRange cand s) := by
  rcases setter_cases op inRange cand s with ⟨-, h⟩ | ⟨-, h⟩ <;> rw [h]
  · exact respond_commitsLimited ..
  · exact limitAndCommit_commitsLimited ..

theorem commitPinOrder_gs (op : BitVec 8) (leds : List Nat) (o : PinOrder) : (commitPinOrder op leds o s).gs = s.gs :=
  respond_gs ..

/-- SHIFT_ROW "reads `GS` and `PO` and writes neither" (42_bit_packer.md R166). -/
theorem execShiftRow_gs (r : Nat) : Ensures (fun t => t.gs = s.gs) (execShiftRow r s) := by
  obtain ⟨-, hgs, -⟩ := shiftRow_keeps r { s with pendingRow := none }
  simp only [execShiftRow, Ensures]
  split
  · split <;> rename_i heq <;> rw [heq] at hgs
    · exact (respond_gs ..).trans hgs
    · exact (respond_gs ..).trans hgs
    · exact hgs
  · exact respond_gs ..

theorem latchRow_gs (r : Nat) : (latchRow r s).gs = s.gs := by
  obtain ⟨-, hgs, -⟩ := pulse_keeps r (s.enterPhase .latching r)
  unfold latchRow
  split
  · split
    · split <;> rename_i heq <;> rw [heq] at hgs
      · exact (respond_gs ..).trans hgs
      · exact hgs
      · exact hgs
    · exact respond_gs ..
  · exact respond_gs ..

theorem updateAll_gs : (updateAll s).gs = s.gs := by
  obtain ⟨-, hgs, -⟩ := updateRows_keeps (rowSeq s.cfg) { s with pendingRow := none }
  unfold updateAll
  split <;> rename_i heq <;> rw [heq] at hgs
  · exact (respond_gs ..).trans hgs
  · exact (respond_gs ..).trans hgs
  · exact hgs

theorem withLatchCtrl_gs (op : BitVec 8) {run : State → State} (hrun : (run s).gs = s.gs) :
    (withLatchCtrl op run s).gs = s.gs := by
  rcases withLatchCtrl_cases op run s with ⟨-, h⟩ | ⟨-, h⟩ <;> rw [h]
  · exact hrun
  · exact respond_gs ..

/-- Every command commits limited candidates only, or leaves the store alone. -/
theorem exec_commitsLimited (i : Instr) : Ensures (CommitsLimited s) (exec i s) := by
  cases i with
  | setAll _ | setAllRgb _ _ _ | setLedMono _ _ | setLedRgb _ _ _ _ | setLedAppend _ _ _ _ | setChannel _ _ =>
    exact setter_commitsLimited ..
  | enforceMaxCurrent => exact limitAndCommit_commitsLimited ..
  | getChannel _ _ | getLed _ _ =>
    simp only [exec, execGetChannel, execGetLed, Ensures]
    split <;> exact respond_commitsLimited ..
  | setPinOrder _ _ _ _ =>
    simp only [exec, execSetPinOrder, Ensures]
    split
    · split
      · exact .of_gs_eq (commitPinOrder_gs ..)
      · exact respond_commitsLimited ..
    · exact respond_commitsLimited ..
  | setPinOrderAll _ _ _ =>
    simp only [exec, execSetPinOrderAll, Ensures]
    split
    · exact .of_gs_eq (commitPinOrder_gs ..)
    · exact respond_commitsLimited ..
  | shiftRow r => exact .of_gs_eq (execShiftRow_gs s r)
  | latch r => exact .of_gs_eq (withLatchCtrl_gs s _ (latchRow_gs s r))
  | update => exact .of_gs_eq (withLatchCtrl_gs s _ (updateAll_gs s))

theorem runWord_commitsLimited (w : Word) : Ensures (CommitsLimited s) (runWord w s) := by
  unfold runWord
  split
  · exact exec_commitsLimited s _
  · exact respond_commitsLimited ..

end

/-- Every step outside reset changes the store by limited candidates only. -/
theorem step_commitsLimited {s t : State} (hr : s.inReset = false) (h : step s = .next t) : CommitsLimited s t := by
  rcases step_cases h with ⟨hin, -, -⟩ | ⟨-, -, rfl⟩ | ⟨-, -, -, -, -, rfl⟩ | ⟨w, rest, -, -, -, -, -, hrun⟩
  · simp [hr] at hin
  · exact .of_gs_eq rfl
  · exact .of_gs_eq rfl
  · have hword := runWord_commitsLimited (s.commandAccepted rest) w
    rw [hrun] at hword
    exact hword

/-- A release empties the store, and every other step commits limited candidates only. -/
theorem step_withinLimit {s t : State} (hs : withinLimit s = true) (h : step s = .next t) : withinLimit t = true := by
  cases hr : s.inReset with
  | true =>
    obtain ⟨-, rfl⟩ := step_from_reset hr h
    rfl
  | false => exact (step_commitsLimited hr h).withinLimit (step_data hr h).cfg hs

end Sys2Proof.Machine

namespace Sys2Proof.Proofs

open Sys2Proof.Machine Sys2Proof.Claims

/-- Settles O35: the reset store is empty, and a step keeps its entries, and so its cells, within the limit. -/
theorem stepKeepsCellsWithinLimit : Obligations.StepKeepsCellsWithinLimit := by
  unfold Obligations.StepKeepsCellsWithinLimit
  refine ⟨fun _ => rfl, fun s t hs hstep => ?_⟩
  have ht : withinLimit t = true := step_withinLimit hs hstep
  exact ⟨ht, withinLimit_cell_le ht⟩

/-- Settles O33: the pass is its keys, its values and its count. -/
theorem limitPassClampsAndCounts : Obligations.LimitPassClampsAndCounts := by
  unfold Obligations.LimitPassClampsAndCounts
  exact fun c cand => ⟨limitPass_keys c cand, limitPass_values c cand, limitPass_count c cand⟩

/-- Settles O34: a commit of each cell's own value. In a state of the invariant no value is above the limit, so the new store reads as
the old one and is the old one. -/
theorem enforceClampsEveryCell : Obligations.EnforceClampsEveryCell := by
  unfold Obligations.EnforceClampsEveryCell
  intro s hs hwf
  obtain ⟨m, hm, hsetter, hnew, hold⟩ := setter_allCells hs hwf 0x09 rfl (Memory.read s.gs)
  refine ⟨rfl, m, hm, congrArg _ hsetter, hnew, hold, fun hinv => ?_⟩
  obtain ⟨hdata, -⟩ := inv_iff.mp hinv
  have hle (f : Nat) (hon : s.cfg.limitEn = true) : cell s.gs f ≤ s.cfg.maxAllowed.toNat :=
    withinLimit_cell_le hdata.limit hon f
  have hread (f : Nat) : m.read f = Memory.read s.gs f := by
    by_cases hf : f < 24 * chips s.cfg
    · exact BitVec.eq_of_toNat_eq ((hnew f hf).trans (effective_of_le (hle f)))
    · exact hold f (Nat.not_lt.mp hf)
  have hstore : m = s.gs := table_ext hm hwf hread
  have hclamp (f : Nat) : clampCount s.cfg (Memory.read s.gs f).toNat = 0 := clampCount_of_le (hle f)
  simp only [hstore, hclamp, List.map_const', List.sum_replicate, smul_zero] at hsetter
  exact congrArg _ hsetter

end Sys2Proof.Proofs

/-! SUPPORT. Proofs of the statements of 42_bit_packer.md about what is sent (R160, R162, R164, R168, R169): the traversal sequences, the
order of the packer's walk, the colour at a slot and the row's stream. -/

namespace Sys2Proof.Machine

open Sys2Proof.Claims

/-! ### The traversal sequences (42_bit_packer.md R160) -/

@[simp] theorem length_directed {α : Type} (o : Order) (xs : List α) : (directed o xs).length = xs.length := by
  cases o <;> simp [directed]

@[simp] theorem mem_directed {α : Type} {o : Order} {xs : List α} {x : α} : x ∈ directed o xs ↔ x ∈ xs := by
  cases o <;> simp [directed]

theorem nodup_directed {α : Type} {o : Order} {xs : List α} (h : xs.Nodup) : (directed o xs).Nodup := by
  cases o with
  | asc => exact h
  | desc => exact List.nodup_reverse.mpr h

/-- What a directed count has at position `i`. -/
theorem getElem?_directed_range (o : Order) {n i : Nat} (hi : i < n) :
    (directed o (List.range n))[i]? = some (place o n i) := by
  cases o with
  | asc => exact List.getElem?_range hi
  | desc =>
    rw [directed, List.getElem?_reverse (by simpa using hi), List.length_range]
    exact List.getElem?_range (by omega)

theorem directed_map {α β : Type} (o : Order) (f : α → β) (xs : List α) :
    directed o (xs.map f) = (directed o xs).map f := by
  cases o with
  | asc => rfl
  | desc => exact List.map_reverse.symm

@[simp] theorem length_rowChips (c : Config) (r : Nat) : (rowChips c r).length = chipsPerRow c := by
  simp [rowChips, latchMap]

@[simp] theorem length_ledSeq (c : Config) : (ledSeq c).length = 8 := by
  simp [ledSeq]

theorem getElem?_rowChips (c : Config) (r : Nat) {i : Nat} (hi : i < chipsPerRow c) :
    (rowChips c r)[i]? = some (r * chipsPerRow c + place c.chipOrder (chipsPerRow c) i) := by
  simp only [rowChips, latchMap, directed_map, List.getElem?_map, getElem?_directed_range c.chipOrder hi, Option.map_some]

theorem getElem?_ledSeq (c : Config) {j : Nat} (hj : j < 8) : (ledSeq c)[j]? = some (place c.ledOrder 8 j) :=
  getElem?_directed_range c.ledOrder hj

theorem nodup_rowChips (c : Config) (r : Nat) : (rowChips c r).Nodup :=
  nodup_directed (List.nodup_range.map fun _ _ h => Nat.add_left_cancel h)

theorem nodup_ledSeq (c : Config) : (ledSeq c).Nodup := nodup_directed List.nodup_range

/-! ### The walk of a row (42_bit_packer.md R162, R164) -/

section
variable {α β : Type} {f : α → List β} {n : Nat}

theorem length_flatMap_of_length {xs : List α} (hf : ∀ x, (f x).length = n) : (xs.flatMap f).length = n * xs.length := by
  simp [List.length_flatMap, hf, Nat.mul_comm]

/-- Parts of one length `n`: position `n * i + j` is position `j` of part `i`. -/
theorem getElem?_flatMap_of_length (hf : ∀ x, (f x).length = n) {xs : List α} {i j : Nat} {x : α} (hx : xs[i]? = some x)
    (hj : j < n) : (xs.flatMap f)[n * i + j]? = (f x)[j]? := by
  induction xs generalizing i with
  | nil => simp at hx
  | cons y ys ih =>
    rw [List.flatMap_cons]
    cases i with
    | zero =>
      obtain rfl : y = x := by simpa using hx
      rw [Nat.mul_zero, Nat.zero_add, List.getElem?_append_left (by rw [hf]; exact hj)]
    | succ i =>
      have hskip : n * (i + 1) + j - (f y).length = n * i + j := by rw [hf, Nat.mul_succ]; omega
      rw [List.getElem?_append_right (by rw [hf, Nat.mul_succ]; omega), hskip]
      exact ih (by simpa using hx)

/-- Parts without repetition repeat nothing together, if each element tells the part that it is of. -/
theorem nodup_flatMap_of_key {xs : List α} (hxs : xs.Nodup) (hf : ∀ x, (f x).Nodup) {key : β → α}
    (hkey : ∀ x, ∀ y ∈ f x, key y = x) : (xs.flatMap f).Nodup :=
  List.nodup_flatMap.mpr ⟨fun x _ => hf x, hxs.imp fun hne y hy hy' => hne ((hkey _ y hy).symm.trans (hkey _ y hy'))⟩

end

/-- The positions of one LED, in slot order (R162). -/
def ledWalk (r ch l : Nat) : List Cursor := slotSeq.map fun p => ⟨r, ch, l, p⟩

/-- The positions of one chip, LED by LED (R164). -/
def chipWalk (c : Config) (r ch : Nat) : List Cursor := (ledSeq c).flatMap (ledWalk r ch)

theorem walk_eq (c : Config) (r : Nat) : walk c r = (rowChips c r).flatMap (chipWalk c r) := rfl

theorem length_ledWalk (r ch l : Nat) : (ledWalk r ch l).length = 3 := rfl

theorem length_chipWalk (c : Config) (r ch : Nat) : (chipWalk c r ch).length = 24 := by
  rw [chipWalk, length_flatMap_of_length (length_ledWalk r ch), length_ledSeq]

theorem length_walk (c : Config) (r : Nat) : (walk c r).length = 24 * chipsPerRow c := by
  rw [walk_eq, length_flatMap_of_length (length_chipWalk c r), length_rowChips]

theorem getElem?_ledWalk (r ch l : Nat) (p : Fin 3) : (ledWalk r ch l)[p.val]? = some ⟨r, ch, l, p⟩ := by
  fin_cases p <;> rfl

theorem mem_slotSeq : ∀ p : Fin 3, p ∈ slotSeq := by
  decide

theorem mem_ledWalk {r ch l : Nat} {k : Cursor} : k ∈ ledWalk r ch l ↔ k.row = r ∧ k.chip = ch ∧ k.led = l := by
  constructor
  · intro hk
    obtain ⟨p, -, rfl⟩ := List.mem_map.mp hk
    exact ⟨rfl, rfl, rfl⟩
  · rintro ⟨rfl, rfl, rfl⟩
    exact List.mem_map.mpr ⟨k.slot, mem_slotSeq k.slot, rfl⟩

theorem mem_chipWalk {c : Config} {r ch : Nat} {k : Cursor} :
    k ∈ chipWalk c r ch ↔ k.row = r ∧ k.chip = ch ∧ k.led < 8 := by
  simp only [chipWalk, List.mem_flatMap, mem_ledWalk, ledSeq, mem_directed, List.mem_range]
  constructor
  · rintro ⟨l, hl, hrow, hchip, rfl⟩
    exact ⟨hrow, hchip, hl⟩
  · rintro ⟨hrow, hchip, hled⟩
    exact ⟨k.led, hled, hrow, hchip, rfl⟩

theorem mem_walk {c : Config} {r : Nat} {k : Cursor} : k ∈ walk c r ↔ k.row = r ∧ k.chip ∈ latchMap c r ∧ k.led < 8 := by
  simp only [walk_eq, List.mem_flatMap, mem_chipWalk, rowChips, mem_directed]
  constructor
  · rintro ⟨ch, hch, hrow, rfl, hled⟩
    exact ⟨hrow, hch, hled⟩
  · rintro ⟨hrow, hch, hled⟩
    exact ⟨k.chip, hch, hrow, rfl, hled⟩

theorem nodup_ledWalk (r ch l : Nat) : (ledWalk r ch l).Nodup :=
  List.Nodup.map (fun _ _ h => congrArg Cursor.slot h) (by decide)

theorem nodup_chipWalk (c : Config) (r ch : Nat) : (chipWalk c r ch).Nodup :=
  nodup_flatMap_of_key (nodup_ledSeq c) (nodup_ledWalk r ch) (key := Cursor.led) fun _ _ hk => (mem_ledWalk.mp hk).2.2

theorem nodup_walk (c : Config) (r : Nat) : (walk c r).Nodup :=
  nodup_flatMap_of_key (nodup_rowChips c r) (nodup_chipWalk c r) (key := Cursor.chip) fun _ _ hk => (mem_chipWalk.mp hk).2.1

/-- Position `24*i + 3*j + p` of the walk is slot `p` of the `j`-th LED of the `i`-th chip. -/
theorem getElem?_walk (c : Config) (r : Nat) {i j : Nat} (hi : i < chipsPerRow c) (hj : j < 8) (p : Fin 3) :
    (walk c r)[24 * i + 3 * j + p.val]? =
      some ⟨r, r * chipsPerRow c + place c.chipOrder (chipsPerRow c) i, place c.ledOrder 8 j, p⟩ := by
  rw [walk_eq, Nat.add_assoc, getElem?_flatMap_of_length (length_chipWalk c r) (getElem?_rowChips c r hi) (by omega), chipWalk,
    getElem?_flatMap_of_length (length_ledWalk r _) (getElem?_ledSeq c hj) p.isLt, getElem?_ledWalk]

/-! ### The colour of a slot (42_bit_packer.md R162) -/

theorem colourAt_eq_iff {o : PinOrder} {p : Fin 3} {c : Colour} : o.colourAt p = c ↔ o.slot c = p := by
  revert p
  cases o <;> cases c <;> decide

theorem slot_colourAt (o : PinOrder) (p : Fin 3) : o.slot (o.colourAt p) = p := colourAt_eq_iff.mp rfl

theorem slot_injective (o : PinOrder) {c1 c2 : Colour} (h : o.slot c1 = o.slot c2) : c1 = c2 :=
  (colourAt_eq_iff.mpr h).symm.trans (colourAt_eq_iff.mpr rfl)

/-- `p` with the slots `a` and `b` exchanged (R169). -/
def swapSlot (a b p : Fin 3) : Fin 3 := if p = a then b else if p = b then a else p

/-- An entry with the slots of two colours exchanged has at each slot the colour that the old entry has at the exchanged slot. -/
theorem colourAt_of_swapped {o o' : PinOrder} {c1 c2 : Colour} (h1 : o'.slot c1 = o.slot c2) (h2 : o'.slot c2 = o.slot c1)
    (hrest : ∀ x, x ≠ c1 → x ≠ c2 → o'.slot x = o.slot x) (p : Fin 3) :
    o'.colourAt p = o.colourAt (swapSlot (o.slot c1) (o.slot c2) p) := by
  refine (colourAt_eq_iff.mpr ?_).symm
  have hp : p = o'.slot (o'.colourAt p) := (slot_colourAt o' p).symm
  generalize o'.colourAt p = c at hp ⊢
  subst hp
  by_cases hc1 : c = c1
  · rw [hc1, h1]
    by_cases heq : o.slot c2 = o.slot c1 <;> simp [swapSlot, heq]
  · by_cases hc2 : c = c2
    · simp [hc2, h2, swapSlot]
    · have hne1 : o.slot c ≠ o.slot c1 := fun h => hc1 (slot_injective o h)
      have hne2 : o.slot c ≠ o.slot c2 := fun h => hc2 (slot_injective o h)
      simp [hrest c hc1 hc2, swapSlot, hne1, hne2]

/-- The cell sent at a slot is that of the colour at it. -/
theorem cellAt_eq_of_colourAt {c : Config} {po po' : Table PinOrder} {k : Cursor} {p : Fin 3}
    (h : (pinOrderOf c po' (k.chip * 8 + k.led)).colourAt k.slot = (pinOrderOf c po (k.chip * 8 + k.led)).colourAt p) :
    cellAt c po' k = cellAt c po { k with slot := p } :=
  congrArg (fun x : Colour => cellIndex k.chip k.led x.index) h

/-! ### The row's stream (42_bit_packer.md R164, R168) -/

@[simp] theorem length_bits12 (v : Gray) : (bits12 v).length = 12 := by
  simp [bits12]

theorem length_rowStream (c : Config) (gs : Memory) (po : Table PinOrder) (r : Nat) :
    (rowStream c gs po r).length = 288 * chipsPerRow c := by
  rw [rowStream, length_flatMap_of_length fun k => length_bits12 _, length_walk, ← Nat.mul_assoc]

end Sys2Proof.Machine

namespace Sys2Proof.Proofs

open Sys2Proof.Machine Sys2Proof.Claims

/-- Settles O13: each of the three slots has its colour. -/
theorem colourAtSlotIsUnique : Obligations.ColourAtSlotIsUnique := by
  unfold Obligations.ColourAtSlotIsUnique
  exact fun o p c => colourAt_eq_iff

/-- Settles O60: each sequence is a count, offset by the row's first chip for `RowChips`, in the direction of its parameter. -/
theorem traversalFollowsTheOrderParameters : Obligations.TraversalFollowsTheOrderParameters := by
  unfold Obligations.TraversalFollowsTheOrderParameters
  intro c r
  refine ⟨(length_directed _ _).trans List.length_range, fun i hi => getElem?_directed_range _ hi, length_rowChips c r,
    fun i hi => getElem?_rowChips c r hi, ?_⟩
  unfold ledSeq
  cases c.ledOrder <;> rfl

/-- Settles O12: the walk is the chips' walks one after another, and these are their LEDs' walks one after another. -/
theorem walkVisitsEachSlotOnce : Obligations.WalkVisitsEachSlotOnce := by
  unfold Obligations.WalkVisitsEachSlotOnce
  exact fun c r => ⟨nodup_walk c r, length_walk c r, fun _ => mem_walk, fun _ _ p hi hj => getElem?_walk c r hi hj p⟩

/-- Settles O14: 12 bits for each of the `24*N` positions of the walk. -/
theorem rowStreamLength : Obligations.RowStreamLength := by
  unfold Obligations.RowStreamLength
  exact length_rowStream

/-- Settles O15: at the LED each slot has the colour of the exchanged slot, and at every other LED the entry is the old one. -/
theorem swappingSlotsSwapsFields : Obligations.SwappingSlotsSwapsFields := by
  unfold Obligations.SwappingSlotsSwapsFields
  rintro c gs po po' led r c1 c2 o o' ho ho' hother h1 h2 hrest
  refine congrArg (walk c r).flatMap (funext fun k => ?_)
  by_cases hled : k.chip * 8 + k.led = led
  · rw [if_pos hled]
    refine congrArg (fun f => bits12 (gs.read f)) (cellAt_eq_of_colourAt ?_)
    rw [hled, ho, ho']
    exact colourAt_of_swapped h1 h2 hrest k.slot
  · rw [if_neg hled]
    exact congrArg (fun f => bits12 (gs.read f)) (cellAt_eq_of_colourAt (by rw [hother _ hled]))

end Sys2Proof.Proofs

/-! SUPPORT. Proofs of the statements of 42_bit_packer.md about the packer bit by bit (R161 to R170): the accumulator as the bits it holds,
and a row's shift as the sending of `RowBytes(r)`, whatever the transport answers. -/

namespace Sys2Proof.Machine

open Sys2Proof.Claims

/-! ### The accumulator as its held bits (42_bit_packer.md R161, R165) -/

section
variable {n : Nat} (held : BitVec n)

theorem shiftIn_held (v : Gray) :
    Accumulator.shiftIn ⟨held.setWidth 19, n⟩ v = ⟨(held ++ v).setWidth 19, n + 12⟩ := by
  rw [BitVec.setWidth_append_eq_shiftLeft_setWidth_or]
  rfl

theorem oldest8_held (h8 : 8 ≤ n) (h19 : n ≤ 19) :
    Accumulator.oldest8 ⟨held.setWidth 19, n⟩ = held.extractLsb' (n - 8) 8 :=
  BitVec.extractLsb'_setWidth_of_le (show n - 8 + 8 ≤ 19 by omega)

theorem drop8_held (h19 : n ≤ 19) :
    Accumulator.drop8 ⟨held.setWidth 19, n⟩ = ⟨(held.extractLsb' 0 (n - 8)).setWidth 19, n - 8⟩ := by
  have hrest : (held.setWidth 19).setWidth (n - 8) = held.extractLsb' 0 (n - 8) := by
    rw [BitVec.setWidth_eq_extractLsb' (by omega), BitVec.extractLsb'_setWidth_of_le (by omega)]
  exact congrArg (fun x : BitVec (n - 8) => Accumulator.mk (x.setWidth 19) (n - 8)) hrest

theorem padded_held : Accumulator.padded ⟨held.setWidth 19, n⟩ = (held ++ 0#(8 - n)).setWidth 8 := by
  rw [BitVec.setWidth_append_eq_shiftLeft_setWidth_or]
  refine BitVec.eq_of_getLsbD_eq fun i hi => ?_
  simp [Accumulator.padded, BitVec.getLsbD_shiftLeft, BitVec.getLsbD_setWidth]

end

/-- The accumulator that holds these bits, the oldest first. -/
def Accumulator.ofBits (bits : List Bool) : Accumulator := ⟨(BitVec.ofBoolListBE bits).setWidth 19, bits.length⟩

/-- The newest bit is the least significant one. -/
theorem getLsbD_ofBoolListBE_eq_reverse (bits : List Bool) (i : Nat) :
    (BitVec.ofBoolListBE bits).getLsbD i = bits.reverse.getD i false := by
  rw [BitVec.getLsbD_ofBoolListBE, List.getD_eq_getElem?_getD, List.getD_eq_getElem?_getD]
  by_cases hi : i < bits.length
  · rw [List.getElem?_reverse hi, decide_eq_true hi, Bool.true_and]
  · simp [hi]

theorem getD_reverse_bits12 (v : Gray) {i : Nat} (hi : i < 12) : (bits12 v).reverse.getD i false = v.getLsbD i := by
  have hlast : 12 - 1 - (12 - 1 - i) = i := by omega
  rw [List.getD_eq_getElem?_getD, List.getElem?_reverse (by simpa using hi), length_bits12, bits12, List.getElem?_map,
    List.getElem?_range (by omega)]
  simp [BitVec.getMsbD_eq_getLsbD, hlast]
  omega

/-- Bits followed by those of a value are the bits with the value appended, at every width. -/
theorem ofBoolListBE_append_bits12 (bits : List Bool) (v : Gray) (w : Nat) :
    (BitVec.ofBoolListBE (bits ++ bits12 v)).setWidth w = (BitVec.ofBoolListBE bits ++ v).setWidth w := by
  refine BitVec.eq_of_getLsbD_eq fun i _ => ?_
  rw [BitVec.getLsbD_setWidth, BitVec.getLsbD_setWidth, BitVec.getLsbD_append, getLsbD_ofBoolListBE_eq_reverse,
    getLsbD_ofBoolListBE_eq_reverse, List.reverse_append]
  by_cases h12 : i < 12
  · rw [if_pos h12, List.getD_append _ _ _ _ (by simpa using h12), getD_reverse_bits12 v h12]
  · rw [if_neg h12, List.getD_append_right _ _ _ _ (by simpa using h12), List.length_reverse, length_bits12]

theorem byteOfBits_concat (bits : List Bool) (b : Bool) :
    byteOfBits (bits ++ [b]) = byteOfBits bits <<< 1 ||| (if b then 1 else 0) := by
  simp [byteOfBits]

theorem getLsbD_byteOfBits (bits : List Bool) {i : Nat} (hi : i < 8) :
    (byteOfBits bits).getLsbD i = bits.reverse.getD i false := by
  induction bits using List.reverseRecOn generalizing i with
  | nil => simp [byteOfBits]
  | append_singleton bits b ih =>
    rw [byteOfBits_concat, List.reverse_concat]
    cases i with
    | zero => cases b <;> simp
    | succ i =>
      have hbit : (if b then 1 else 0 : Byte).getLsbD (i + 1) = false := by cases b <;> simp
      rw [BitVec.getLsbD_or, hbit, Bool.or_false, BitVec.getLsbD_shiftLeft]
      simp [hi, ih (by omega : i < 8)]

/-! #### The accumulator's operations on its bits -/

theorem shiftIn_ofBits (bits : List Bool) (v : Gray) :
    (Accumulator.ofBits bits).shiftIn v = Accumulator.ofBits (bits ++ bits12 v) := by
  rw [Accumulator.ofBits, shiftIn_held, Accumulator.ofBits, ofBoolListBE_append_bits12, List.length_append, length_bits12]

theorem oldest8_ofBits {bits : List Bool} (h8 : 8 ≤ bits.length) (h19 : bits.length ≤ 19) :
    (Accumulator.ofBits bits).oldest8 = byteOfBits (bits.take 8) := by
  rw [Accumulator.ofBits, oldest8_held _ h8 h19]
  refine BitVec.eq_of_getLsbD_eq fun i hi => ?_
  rw [getLsbD_byteOfBits _ hi, BitVec.getLsbD_extractLsb', getLsbD_ofBoolListBE_eq_reverse, List.reverse_take]
  simp [List.getD_eq_getElem?_getD, hi, List.getElem?_drop]

theorem drop8_ofBits {bits : List Bool} (h19 : bits.length ≤ 19) :
    (Accumulator.ofBits bits).drop8 = Accumulator.ofBits (bits.drop 8) := by
  rw [Accumulator.ofBits, drop8_held _ h19, Accumulator.ofBits]
  refine congrArg₂ Accumulator.mk (BitVec.eq_of_getLsbD_eq fun i hi => ?_) List.length_drop.symm
  rw [BitVec.getLsbD_setWidth, BitVec.getLsbD_setWidth, BitVec.getLsbD_extractLsb', Nat.zero_add, getLsbD_ofBoolListBE_eq_reverse,
    getLsbD_ofBoolListBE_eq_reverse, List.reverse_drop, List.getD_eq_getElem?_getD, List.getD_eq_getElem?_getD,
    List.getElem?_take]
  by_cases hkept : i < bits.length - 8 <;> simp [hkept]

/-! ### The bytes of a bit stream (42_bit_packer.md R164) -/

/-- The first `n` bytes of a stream. -/
def firstBytes (n : Nat) (bits : List Bool) : List Byte :=
  (List.range n).map fun k => byteOfBits ((bits.drop (8 * k)).take 8)

theorem rowBytes_eq (c : Config) (gs : Memory) (po : Table PinOrder) (r : Nat) :
    rowBytes c gs po r = firstBytes (rowBytesCount c) (rowStream c gs po r) := rfl

@[simp] theorem length_firstBytes (n : Nat) (bits : List Bool) : (firstBytes n bits).length = n := by
  simp [firstBytes]

/-- The bytes of a stream whose first part has room for `n` of them: those, then the bytes of what the first part leaves over and the
second part. -/
theorem firstBytes_append {n : Nat} {as : List Bool} (h : 8 * n ≤ as.length) (m : Nat) (bs : List Bool) :
    firstBytes (n + m) (as ++ bs) = firstBytes n as ++ firstBytes m (as.drop (8 * n) ++ bs) := by
  rw [firstBytes, List.range_add, List.map_append, List.map_map]
  refine congrArg₂ _ (List.map_congr_left fun k hk => ?_) (List.map_congr_left fun k _ => ?_)
  · have hk8 : 8 * k + 8 ≤ 8 * n := by have := List.mem_range.mp hk; omega
    rw [List.drop_append_of_le_length (by omega), List.take_append_of_le_length (by rw [List.length_drop]; omega)]
  · rw [← List.drop_append_of_le_length h, List.drop_drop, ← Nat.mul_add]
    rfl

theorem firstBytes_succ (n : Nat) (bits : List Bool) :
    firstBytes (n + 1) bits = byteOfBits (bits.take 8) :: firstBytes n (bits.drop 8) := by
  rw [firstBytes, List.range_succ_eq_map, List.map_cons, List.map_map]
  refine congrArg₂ _ rfl (List.map_congr_left fun k _ => ?_)
  rw [List.drop_drop, Nat.add_comm 8]
  rfl

/-- The whole bytes of a stream. -/
def wholeBytes (bits : List Bool) : List Byte := firstBytes (bits.length / 8) bits

/-- The bits after the whole bytes. -/
def leftover (bits : List Bool) : List Bool := bits.drop (8 * (bits.length / 8))

theorem length_leftover (bits : List Bool) : (leftover bits).length = bits.length % 8 := by
  rw [leftover, List.length_drop]
  omega

theorem wholeBytes_of_lt {bits : List Bool} (h : bits.length < 8) : wholeBytes bits = [] := by
  rw [wholeBytes, Nat.div_eq_of_lt h]
  rfl

theorem leftover_of_lt {bits : List Bool} (h : bits.length < 8) : leftover bits = bits := by
  rw [leftover, Nat.div_eq_of_lt h]
  rfl

theorem length_leftover_lt (bits : List Bool) : (leftover bits).length < 8 := by
  rw [length_leftover]
  omega

theorem div_length_append (as bs : List Bool) :
    (as ++ bs).length / 8 = as.length / 8 + (leftover as ++ bs).length / 8 := by
  rw [List.length_append, List.length_append, length_leftover]
  omega

theorem wholeBytes_append (as bs : List Bool) : wholeBytes (as ++ bs) = wholeBytes as ++ wholeBytes (leftover as ++ bs) := by
  rw [wholeBytes, div_length_append, firstBytes_append (by omega)]
  rfl

theorem leftover_append (as bs : List Bool) : leftover (as ++ bs) = leftover (leftover as ++ bs) := by
  rw [leftover, div_length_append, Nat.mul_add, ← List.drop_drop, List.drop_append_of_le_length (by omega)]
  rfl

/-! ### Sending bytes (60_exceptions.md R205) -/

/-- Emit bytes in turn, until one is not accepted. -/
def sendAll : List Byte → State → Progress
  | [], s => .ok s
  | b :: bs, s => (emit b s).andThen (sendAll bs)

theorem sendAll_append (as bs : List Byte) (s : State) : sendAll (as ++ bs) s = (sendAll as s).andThen (sendAll bs) := by
  induction as generalizing s with
  | nil => rfl
  | cons b as ih =>
    simp only [List.cons_append, sendAll]
    cases emit b s with
    | ok t => exact ih t
    | fail t => rfl
    | halted t => rfl

/-- With no reset coming and an `ok` for every byte, all go out and are recorded. -/
theorem sendAll_of_oks {bs : List Byte} {s : State} {rs : List Reply} (hreset : s.resetAfter = none)
    (hreplies : s.replies = oks bs.length ++ rs) :
    sendAll bs s = .ok { s with replies := rs, attempts := s.attempts + bs.length, log := s.log ++ bytesOk bs } := by
  induction bs generalizing s with
  | nil =>
    obtain rfl : s.replies = rs := hreplies
    simp [sendAll, bytesOk]
  | cons b bs ih =>
    rw [sendAll, emit_ok (rs := oks bs.length ++ rs) hreset hreplies, Progress.andThen_ok, ih]
    · simp [bytesOk, Nat.add_assoc, Nat.add_comm 1]
    · exact hreset
    · rfl

/-- With no reset coming and byte `k` the first to be refused, the bytes before it are recorded as accepted and it as refused, and no
later one is sent (42_bit_packer.md R167). -/
theorem sendAll_of_fail {bs : List Byte} {k : Nat} (hk : k < bs.length) {s : State} {rs : List Reply}
    (hreset : s.resetAfter = none) (hreplies : s.replies = oks k ++ .answer .fail :: rs) :
    sendAll bs s = .fail { s with
      replies := rs
      attempts := s.attempts + k + 1
      log := s.log ++ bytesOk (bs.take k) ++ [.byte (bs.getD k 0) .fail] } := by
  have hlen : (bs.take k).length = k := List.length_take_of_le hk.le
  have hsplit : bs = bs.take k ++ bs[k] :: bs.drop (k + 1) := by
    rw [List.getElem_cons_drop, List.take_append_drop]
  have hbefore := sendAll_of_oks (bs := bs.take k) (rs := .answer .fail :: rs) hreset (by rw [hlen, hreplies])
  rw [hlen] at hbefore
  conv_lhs => rw [hsplit]
  rw [sendAll_append, hbefore, Progress.andThen_ok, sendAll, List.getD_eq_getElem _ _ hk]
  exact congrArg (Progress.andThen · _) (emit_fail (by exact hreset) (by rfl) _)

/-! ### The turns of a push (42_bit_packer.md R161) -/

theorem push_of_held {n : Nat} {held : BitVec n} {s : State} (haccum : s.accum = ⟨held.setWidth 19, n⟩) (v : Gray) :
    push v s = drain ((n + 12) / 8) { s with accum := ⟨(held ++ v).setWidth 19, n + 12⟩ } := by
  rw [push, haccum, shiftIn_held]

/-- One turn of the loop of `Push`, with no reset coming and an `ok` for its byte (R161). -/
theorem drain_succ_of_held {n : Nat} {held : BitVec n} {s : State} {rs : List Reply} (haccum : s.accum = ⟨held.setWidth 19, n⟩)
    (h8 : 8 ≤ n) (h19 : n ≤ 19) (hreset : s.resetAfter = none) (hreplies : s.replies = .answer .ok :: rs) (m : Nat) :
    drain (m + 1) s = drain m { s with
      accum := ⟨(held.extractLsb' 0 (n - 8)).setWidth 19, n - 8⟩
      replies := rs
      attempts := s.attempts + 1
      log := s.log ++ [.byte (held.extractLsb' (n - 8) 8) .ok] } := by
  rw [drain, haccum, oldest8_held held h8 h19, drop8_held held h19]
  exact congrArg (Progress.andThen · (drain m)) (emit_ok (by exact hreset) (by exact hreplies) _)

/-! ### A row's shift (42_bit_packer.md R166) -/

/-- `p` ended as `q` did, and in the same state but for the packer's own registers, which are at rest in `q`'s; in `P` after `ok`. -/
inductive Progress.Tracks (P : State → Prop) : Progress → Progress → Prop
  | ok {s : State} (h : P s) : Tracks P (.ok s) (.ok s.endShift)
  | fail {s : State} : Tracks P (.fail s) (.fail s.endShift)
  | halted {s : State} : Tracks P (.halted s) (.halted s.endShift)

theorem Progress.Tracks.andThen {P Q : State → Prop} {p q : Progress} {f g : State → Progress} (hpq : p.Tracks P q)
    (hfg : ∀ s, P s → (f s).Tracks Q (g s.endShift)) : (p.andThen f).Tracks Q (q.andThen g) := by
  cases hpq with
  | ok h => exact hfg _ h
  | fail => exact .fail
  | halted => exact .halted

/-- Within a row's shift begun in `s0`: the accumulator holds `bits`, and the data is that of `s0`. -/
structure Holding (s0 : State) (bits : List Bool) (s : State) : Prop where
  keeps : KeepsData s0 s
  accum : s.accum = Accumulator.ofBits bits

theorem Holding.withAccum {s0 s : State} {bits : List Bool} (h : Holding s0 bits s) (bits' : List Bool) :
    Holding s0 bits' { s with accum := Accumulator.ofBits bits' } :=
  ⟨h.keeps, rfl⟩

theorem Holding.withCursor {s0 s : State} {bits : List Bool} (h : Holding s0 bits s) (k : Cursor) :
    Holding s0 bits { s with cursor := some k } :=
  ⟨h.keeps, h.accum⟩

section
variable {s0 s : State} {bits : List Bool}

/-- Emitting reads and writes no register of the packer. -/
theorem emit_tracks (h : Holding s0 bits s) (b : Byte) : (emit b s).Tracks (Holding s0 bits) (emit b s.endShift) := by
  have hdue : s.endShift.resetDue = s.resetDue := rfl
  have hreply : s.endShift.nextReply = s.nextReply := rfl
  have hcoming : s.endShift.resetAfter = s.resetAfter := rfl
  simp only [emit, hdue, hreply, hcoming]
  split
  · exact .halted
  · split
    · split <;> exact .halted
    · exact .ok ⟨h.keeps, h.accum⟩
    · exact .fail

/-- The loop of `Push` sends the oldest bytes. -/
theorem drain_tracks (n : Nat) (h : Holding s0 bits s) (hn : 8 * n ≤ bits.length) (h19 : bits.length ≤ 19) :
    (drain n s).Tracks (Holding s0 (bits.drop (8 * n))) (sendAll (firstBytes n bits) s.endShift) := by
  induction n generalizing s bits with
  | zero => exact .ok h
  | succ n ih =>
    rw [drain, firstBytes_succ, h.accum, oldest8_ofBits (by omega) h19, drop8_ofBits h19, Nat.mul_succ, Nat.add_comm,
      ← List.drop_drop]
    exact (emit_tracks (h.withAccum _) _).andThen fun t ht =>
      ih ht (by rw [List.length_drop]; omega) (by rw [List.length_drop]; omega)

/-- `Push(v)` sends the whole bytes of the held bits and `v`, and holds the rest (R161). -/
theorem push_tracks (h : Holding s0 bits s) (hlt : bits.length < 8) (v : Gray) :
    (push v s).Tracks (Holding s0 (leftover (bits ++ bits12 v))) (sendAll (wholeBytes (bits ++ bits12 v)) s.endShift) := by
  rw [push, h.accum, shiftIn_ofBits]
  exact drain_tracks _ (h.withAccum _) (Nat.mul_div_le _ 8) (by rw [List.length_append, length_bits12]; omega)

/-- The bits of the values at some positions, in turn (R164). -/
def streamOf (s0 : State) (ks : List Cursor) : List Bool :=
  ks.flatMap fun k => bits12 (Memory.read s0.gs (cellAt s0.cfg s0.po k))

theorem streamOf_cons (s0 : State) (k : Cursor) (ks : List Cursor) :
    streamOf s0 (k :: ks) = bits12 (Memory.read s0.gs (cellAt s0.cfg s0.po k)) ++ streamOf s0 ks := rfl

/-- Pushing a value for each position sends the whole bytes of the held bits and the stream, and holds the rest. -/
theorem pushWalk_tracks (ks : List Cursor) (h : Holding s0 bits s) (hlt : bits.length < 8) :
    (pushWalk ks s).Tracks (Holding s0 (leftover (bits ++ streamOf s0 ks)))
      (sendAll (wholeBytes (bits ++ streamOf s0 ks)) s.endShift) := by
  induction ks generalizing s bits with
  | nil =>
    have hstream : streamOf s0 [] = [] := rfl
    rw [hstream, List.append_nil, wholeBytes_of_lt hlt, leftover_of_lt hlt]
    exact .ok h
  | cons k ks ih =>
    obtain ⟨hcfg, hgs, hpo, -⟩ := h.keeps
    have hvalue : Memory.read s.gs (cellAt s.cfg s.po k) = Memory.read s0.gs (cellAt s0.cfg s0.po k) := by rw [hcfg, hgs, hpo]
    rw [pushWalk, hvalue, streamOf_cons, ← List.append_assoc, wholeBytes_append, leftover_append, sendAll_append]
    exact (push_tracks (h.withCursor k) hlt _).andThen fun t ht => ih ht (length_leftover_lt _)

end

/-- A row's stream is its bytes and nothing over (R168). -/
theorem wholeBytes_rowStream (c : Config) (gs : Memory) (po : Table PinOrder) (r : Nat) :
    wholeBytes (rowStream c gs po r) = rowBytes c gs po r := by
  have hcount : 288 * chipsPerRow c / 8 = 36 * chipsPerRow c := by omega
  rw [wholeBytes, length_rowStream, hcount, rowBytes_eq, rowBytesCount]

theorem leftover_rowStream (c : Config) (gs : Memory) (po : Table PinOrder) (r : Nat) : leftover (rowStream c gs po r) = [] := by
  rw [← List.length_eq_zero_iff, length_leftover, length_rowStream]
  omega

theorem flush_of_empty {s : State} (h : s.accum.cnt = 0) : flush s = .ok s := by
  simp [flush, h]

/-- The transmission of a row, before its end, is the sending of `RowBytes(r)`: no bit is left for the flush. -/
theorem rowTransmission_tracks (r : Nat) (s : State) :
    ((pushWalk (walk s.cfg r) { s.enterPhase .shifting r with accum := Accumulator.empty }).andThen flush).Tracks
      (Holding s []) (sendAll (bytesOf s r) (s.enterPhase .shifting r).endShift) := by
  have hstart : Holding s [] { s.enterPhase .shifting r with accum := Accumulator.empty } := ⟨KeepsData.refl s, rfl⟩
  have hwalk := pushWalk_tracks (walk s.cfg r) hstart (by decide)
  have hstream : streamOf s (walk s.cfg r) = rowStream s.cfg s.gs s.po r := rfl
  rw [List.nil_append, hstream, wholeBytes_rowStream, leftover_rowStream] at hwalk
  have hflush (t : State) (ht : Holding s [] t) : (flush t).Tracks (Holding s []) (.ok t.endShift) := by
    rw [flush_of_empty (by rw [ht.accum]; rfl)]
    exact .ok ht
  have hend (p : Progress) : p.andThen .ok = p := by cases p <;> rfl
  rw [← hend (sendAll _ _)]
  exact hwalk.andThen hflush

/-- A row's shift that is not cut short is the sending of its bytes: its end puts the packer's registers to rest (R163). -/
theorem shiftRow_of_sendAll {r : Nat} {s : State} {p : Progress}
    (hsend : sendAll (bytesOf s r) (s.enterPhase .shifting r).endShift = p) (hp : ∀ t, p ≠ .halted t) : shiftRow r s = p := by
  have hrow := rowTransmission_tracks r s
  rw [hsend] at hrow
  rw [shiftRow]
  generalize (pushWalk _ _).andThen flush = q at hrow ⊢
  cases hrow with
  | ok => rfl
  | fail => rfl
  | halted => exact absurd rfl (hp _)

@[simp] theorem bytesOf_withPending (s : State) (row : Option Nat) (r : Nat) :
    bytesOf { s with pendingRow := row } r = bytesOf s r := rfl

@[simp] theorem rowLen_withPending (s : State) (row : Option Nat) : rowLen { s with pendingRow := row } = rowLen s := rfl

@[simp] theorem length_bytesOf (s : State) (r : Nat) : (bytesOf s r).length = rowLen s :=
  length_firstBytes _ _

/-- A row every byte of which the transport accepts (R166, R168). -/
theorem shiftRow_of_oks (r : Nat) {s : State} {rs : List Reply} (hreset : s.resetAfter = none)
    (hreplies : s.replies = oks (rowLen s) ++ rs) :
    shiftRow r s = .ok { s with
      phase := .shifting
      accum := ⟨0, 0⟩
      cursor := none
      replies := rs
      attempts := s.attempts + rowLen s
      log := s.log ++ [.phase s.phase .shifting r] ++ bytesOk (bytesOf s r) } := by
  have hsend := sendAll_of_oks (bs := bytesOf s r) (s := (s.enterPhase .shifting r).endShift) (rs := rs) hreset
    (by rw [length_bytesOf]; exact hreplies)
  rw [length_bytesOf] at hsend
  exact shiftRow_of_sendAll hsend (by simp)

/-- A row whose byte `k` is the first that the transport refuses (R167). -/
theorem shiftRow_of_fail {r k : Nat} {s : State} {rs : List Reply} (hk : k < rowLen s) (hreset : s.resetAfter = none)
    (hreplies : s.replies = oks k ++ .answer .fail :: rs) :
    shiftRow r s = .fail { s with
      phase := .shifting
      accum := ⟨0, 0⟩
      cursor := none
      replies := rs
      attempts := s.attempts + k + 1
      log := s.log ++ [.phase s.phase .shifting r] ++ bytesOk ((bytesOf s r).take k) ++
        [.byte ((bytesOf s r).getD k 0) .fail] } :=
  shiftRow_of_sendAll (sendAll_of_fail (by rwa [length_bytesOf]) hreset hreplies) (by simp)

/-- SHIFT_ROW of a row of the chain when its shift succeeds (R170). -/
theorem exec_shiftRow_of_ok {r : Nat} {s t : State} (hr : r < rows s.cfg)
    (hshift : shiftRow r { s with pendingRow := none } = .ok t) (hreset : t.resetAfter = none) :
    exec (.shiftRow r) s =
      .next (answered { t.enterPhase .idle r with pendingRow := some r } (responseWord 0x0C .ok 0 0 0 0)) := by
  simp only [exec, execShiftRow, rowInRange_iff.mpr hr, if_true, hshift]
  exact congrArg _ (respond_eq_answered (s := { t.enterPhase .idle r with pendingRow := some r }) hreset ..)

/-- SHIFT_ROW of a row of the chain when its shift fails (60_exceptions.md R209). -/
theorem exec_shiftRow_of_fail {r : Nat} {s t : State} (hr : r < rows s.cfg)
    (hshift : shiftRow r { s with pendingRow := none } = .fail t) (hreset : t.resetAfter = none) :
    exec (.shiftRow r) s = .next (answered (t.enterPhase .idle r) (responseWord 0x0C .transportError 0 0 0 0)) := by
  simp only [exec, execShiftRow, rowInRange_iff.mpr hr, if_true, hshift]
  exact congrArg _ (respond_eq_answered (s := t.enterPhase .idle r) hreset ..)

end Sys2Proof.Machine

namespace Sys2Proof.Proofs

open Sys2Proof.Machine Sys2Proof.Claims

/-- Settles O36: the pushed value makes 12 held bits, of which one byte goes, or 16, of which two go. -/
theorem pushEmitsTheOldestBits : Obligations.PushEmitsTheOldestBits := by
  unfold Obligations.PushEmitsTheOldestBits
  constructor
  · intro v s rs hreset haccum hreplies
    have hbyte : (0#0 ++ v).extractLsb' 4 8 = v.extractLsb' 4 8 := BitVec.extractLsb'_append_eq_of_add_le (by decide)
    have hrest : (0#0 ++ v).extractLsb' 0 4 = v.extractLsb' 0 4 := BitVec.extractLsb'_append_eq_of_add_le (by decide)
    rw [push_of_held (held := 0#0) haccum, ← hbyte, ← hrest]
    exact drain_succ_of_held (n := 12) (by rfl) (by decide) (by decide) (by exact hreset) (by exact hreplies) 0
  · intro v held s rs hreset haccum hreplies
    have hfirst : (held ++ v).extractLsb' 8 8 = held ++ v.extractLsb' 8 4 := by
      rw [BitVec.extractLsb'_append_eq_ite, dif_pos (by decide), dif_neg (by decide)]
      exact congrArg (· ++ v.extractLsb' 8 4) BitVec.extractLsb'_eq_self
    have hsecond : (held ++ v).extractLsb' 0 8 = v.extractLsb' 0 8 := BitVec.extractLsb'_append_eq_of_add_le (by decide)
    rw [push_of_held haccum, ← hfirst, ← hsecond]
    refine (drain_succ_of_held (n := 16) (by rfl) (by decide) (by decide) (by exact hreset) (by exact hreplies) 1).trans ?_
    refine (drain_succ_of_held (n := 8) (by rfl) (by decide) (by decide) (by exact hreset) (by rfl) 0).trans ?_
    simp [drain]

/-- Settles O37: the held bits with zeros appended are the padded byte. -/
theorem flushPadsAfterTheData : Obligations.FlushPadsAfterTheData := by
  unfold Obligations.FlushPadsAfterTheData
  refine ⟨fun s h => flush_of_empty h, fun n held s rs hpos _ hreset haccum hreplies => ?_⟩
  rw [flush, haccum, if_pos hpos, padded_held]
  exact emit_ok (s := { s with accum := Accumulator.empty }) hreset hreplies _

/-- Settles O38: the row's shift is the sending of its bytes, between the two phase changes. -/
theorem shiftRowEmitsRowBytes : Obligations.ShiftRowEmitsRowBytes := by
  unfold Obligations.ShiftRowEmitsRowBytes
  intro r s rs hreset hr hreplies
  have hshift := shiftRow_of_oks r (s := { s with pendingRow := none }) hreset hreplies
  refine ⟨rfl, length_bytesOf s r, (exec_shiftRow_of_ok hr hshift hreset).trans ?_⟩
  simp [answered, State.enterPhase, State.logged]

/-- Settles O39: the row's shift is the sending of its bytes up to the refused one, between the two phase changes. -/
theorem shiftRowStopsAtTheFailedByte : Obligations.ShiftRowStopsAtTheFailedByte := by
  unfold Obligations.ShiftRowStopsAtTheFailedByte
  intro r k s rs hreset hr hk hreplies
  have hshift := shiftRow_of_fail (r := r) (s := { s with pendingRow := none }) hk hreset hreplies
  refine (exec_shiftRow_of_fail hr hshift hreset).trans ?_
  simp [answered, State.enterPhase, State.logged]

end Sys2Proof.Proofs

/-! SUPPORT. Proofs of the statements of 43_latch.md about the order of outputs (R180, R182, R184, R192): while a command runs, the monitor
reads on and agrees with the state (`Follows`), and every end of a command, one that reset or a silent transport brings too, keeps the
order (`OrderStep`). -/

namespace Sys2Proof.Machine

open Sys2Proof.Claims

/-! ### The monitor along a command -/

/-- The latch lines that a monitor remembers: the one at 1, if any. -/
def Monitor.lines (m : Monitor) : Table Bool :=
  match m.high with
  | none => []
  | some r => [(r, true)]

/-- In the midst of a command begun with the record `l`, with `n` chips in a row and this pending row: reset was not asserted since, and
the monitor that has read the whole record is `m` and agrees with the state. -/
structure Follows (n : Nat) (l : List Event) (row : Option Nat) (m : Monitor) (s : State) : Prop where
  chips : chipsPerRow s.cfg = n
  inReset : s.inReset = false
  pending : s.pendingRow = row
  log : ∃ es, s.log = l ++ es ∧ .resetAsserted ∉ es
  monitor : monitorFrom n (some Monitor.start) s.log = some m
  phase : s.phase = m.phase
  latch : s.latch = m.lines

/-- A step begun with the record `l` ends in `t`: the order is kept, and so it was up to an assertion of reset. -/
def OrderStep (n : Nat) (l : List Event) (t : State) : Prop :=
  t.OrderKept ∧ ∃ es, t.log = l ++ es ∧
    (monitorFrom n (monitorFrom n (some Monitor.start) l) (beforeReset es)).isSome = true

theorem monitorFrom_concat (n : Nat) (m : Option Monitor) (es : List Event) {e : Event} (he : e ≠ .resetAsserted) :
    monitorFrom n m (es ++ [e]) = (monitorFrom n m es).bind fun m => m.next n e := by
  rw [monitorFrom_append]
  exact if_neg he

theorem beforeReset_of_notMem {es : List Event} (h : .resetAsserted ∉ es) : beforeReset es = es :=
  List.takeWhile_eq_self_iff.mpr fun _ he => decide_eq_true (ne_of_mem_of_not_mem he h)

theorem beforeReset_concat {es : List Event} (h : .resetAsserted ∉ es) : beforeReset (es ++ [.resetAsserted]) = es := by
  rw [beforeReset, List.takeWhile_append_of_pos fun _ he => decide_eq_true (ne_of_mem_of_not_mem he h)]
  exact List.append_nil es

/-- A monitor lets reset take down the line that it remembers at 1. -/
theorem monitorFrom_lines (n : Nat) (m : Monitor) :
    (monitorFrom n (some m) (m.lines.map fun e => Event.line e.1 false)).isSome = true := by
  cases hhigh : m.high with
  | none => simp [Monitor.lines, hhigh, monitorFrom]
  | some r => simp [Monitor.lines, hhigh, monitorFrom, Monitor.next]

section
variable {n : Nat} {l : List Event} {row : Option Nat} {m : Monitor} {s : State}

/-- The monitor goes on with one entry, to agree with the state after it. -/
theorem Follows.record (h : Follows n l row m s) {e : Event} {m' : Monitor} {t : State} (hnext : m.next n e = some m')
    (he : e ≠ .resetAsserted) (hlog : t.log = s.log ++ [e]) (hcfg : t.cfg = s.cfg) (hreset : t.inReset = s.inReset)
    (hrow : t.pendingRow = row) (hphase : t.phase = m'.phase) (hlatch : t.latch = m'.lines) : Follows n l row m' t := by
  obtain ⟨es, hes, hnone⟩ := h.log
  have hmonitor : monitorFrom n (some Monitor.start) t.log = some m' := by
    rw [hlog, monitorFrom_concat _ _ _ he, h.monitor]
    exact hnext
  exact ⟨hcfg ▸ h.chips, hreset.trans h.inReset, hrow, ⟨es ++ [e], by simp [hlog, hes], by simp [hnone, he.symm]⟩, hmonitor,
    hphase, hlatch⟩

/-- What the monitor does not look at may change. -/
theorem Follows.of_eq {t : State} {row' : Option Nat} (h : Follows n l row m s) (hrow : t.pendingRow = row') (hlog : t.log = s.log)
    (hcfg : t.cfg = s.cfg) (hreset : t.inReset = s.inReset) (hphase : t.phase = s.phase) (hlatch : t.latch = s.latch) :
    Follows n l row' m t :=
  ⟨hcfg ▸ h.chips, hreset.trans h.inReset, hrow, hlog ▸ h.log, hlog ▸ h.monitor, hphase.trans h.phase, hlatch.trans h.latch⟩

/-! ### How a step ends -/

/-- Reset may be asserted at any point of a command: a line at 1 goes down, and the monitor starts again. -/
theorem Follows.assertReset (h : Follows n l row m s) : OrderStep n l s.assertReset := by
  obtain ⟨es, hes, hnone⟩ := h.log
  have hdown : .resetAsserted ∉ es ++ s.latch.map fun e => Event.line e.1 false := by simp [hnone]
  have hbefore : monitorFrom n (monitorFrom n (some Monitor.start) l) es = some m := by
    rw [← monitorFrom_append, ← hes, h.monitor]
  refine ⟨⟨Monitor.start, ?_, rfl, rfl, ?_⟩, (es ++ s.latch.map fun e => Event.line e.1 false) ++ [.resetAsserted], ?_, ?_⟩
  · rw [State.assertReset_log, monitorFrom_reset]
  · simp
  · simp [hes]
  · rw [beforeReset_concat hdown, monitorFrom_append, hbefore, h.latch]
    exact monitorFrom_lines n m

/-- Outside reset a step may end where no line is at 1, nothing is half latched, and a pending row has been shifted whole. -/
theorem Follows.orderStep (h : Follows n l row m s) (hhigh : m.high = none) (hphase : m.phase ≠ .latching)
    (hrun : ∀ r, row = some r → m.run = some (r, 36 * n)) : OrderStep n l s := by
  obtain ⟨es, hes, hnone⟩ := h.log
  have hlatch : s.latch = [] := by rw [h.latch, Monitor.lines, hhigh]
  refine ⟨⟨m, by rw [h.chips, h.monitor], hhigh, hlatch, ?_⟩, es, hes, ?_⟩
  · rw [h.inReset, h.phase, h.pending, h.chips]
    exact ⟨rfl, hphase, hrun⟩
  · rw [beforeReset_of_notMem hnone, ← monitorFrom_append, ← hes, h.monitor]
    rfl

/-! ### The operations of a shift and of a pulse -/

theorem Follows.enterPhase (h : Follows n l row m s) {q : Phase} {r : Nat} (hedge : phaseEdge m.phase q = true) (hhigh : m.high = none)
    (hrun : q = .latching → m.run = some (r, 36 * n)) :
    Follows n l row { m with phase := q, run := if q = .shifting then some (r, 0) else m.run } (s.enterPhase q r) := by
  have hnext : m.next n (.phase s.phase q r) =
      some { m with phase := q, run := if q = .shifting then some (r, 0) else m.run } :=
    if_pos ⟨h.phase, h.phase ▸ hedge, hhigh, hrun⟩
  exact h.record hnext (by simp) rfl rfl rfl h.pending rfl h.latch

/-- An answer to a byte of a row that is not yet whole. -/
theorem Follows.byteAnswered {r k : Nat} (h : Follows n l row ⟨.shifting, none, some (r, k)⟩ s) (hk : k < 36 * n) (b : Byte)
    (a : Answer) :
    Follows n l row ⟨.shifting, none, if a = .ok then some (r, k + 1) else none⟩ (s.byteAnswered b a) := by
  have hnext : Monitor.next n ⟨.shifting, none, some (r, k)⟩ (.byte b a) =
      some ⟨.shifting, none, if a = .ok then some (r, k + 1) else none⟩ :=
    if_pos ⟨rfl, rfl, hk⟩
  exact h.record hnext (by simp) rfl rfl rfl h.pending h.phase h.latch

theorem Follows.lineUp {run : Option (Nat × Nat)} (h : Follows n l row ⟨.latching, none, run⟩ s) (r : Nat) :
    Follows n l row ⟨.latching, some r, run⟩ (s.driveLine r true).tick := by
  have hlatch : tableWrite false s.latch r true = [(r, true)] := by rw [h.latch]; rfl
  exact h.record (e := .line r true) rfl (by simp) rfl rfl rfl h.pending h.phase hlatch

theorem Follows.lineDown {run : Option (Nat × Nat)} {r : Nat} (h : Follows n l row ⟨.latching, some r, run⟩ s) :
    Follows n l row ⟨.latching, none, run⟩ (s.driveLine r false) := by
  have hnext : Monitor.next n ⟨.latching, some r, run⟩ (.line r false) = some ⟨.latching, none, run⟩ := if_pos rfl
  have hlatch : tableWrite false s.latch r false = [] := by rw [h.latch]; simp [Monitor.lines, tableWrite]
  exact h.record hnext (by simp) rfl rfl rfl h.pending h.phase hlatch

/-- A pulse is completed, of a row that was shifted whole. -/
theorem Follows.latchPulse {r : Nat} (h : Follows n l row ⟨.latching, none, some (r, 36 * n)⟩ s) :
    Follows n l row ⟨.latching, none, none⟩ (s.logged (.latchPulse r)).tick := by
  have hnext : Monitor.next n ⟨.latching, none, some (r, 36 * n)⟩ (.latchPulse r) = some ⟨.latching, none, none⟩ :=
    if_pos ⟨rfl, rfl, rfl⟩
  exact h.record hnext (by simp) rfl rfl rfl h.pending h.phase h.latch

/-- How an operation that may be cut short ends: in `P` after `ok`, in `F` after `fail`, and otherwise as the end of a step that keeps
the order. -/
def Progress.KeepsOrder (n : Nat) (l : List Event) (P F : State → Prop) : Progress → Prop
  | .ok s => P s
  | .fail s => F s
  | .halted s => OrderStep n l s

theorem Progress.KeepsOrder.andThen {P Q F : State → Prop} {p : Progress} {f : State → Progress} (hp : p.KeepsOrder n l P F)
    (hf : ∀ s, P s → (f s).KeepsOrder n l Q F) : (p.andThen f).KeepsOrder n l Q F := by
  cases p with
  | ok s => exact hf s hp
  | fail s => exact hp
  | halted s => exact hp

/-- A byte of a row that is not yet whole: it is accepted, or refused, or the step ends with no row pending. -/
theorem emit_keepsOrder {r k : Nat} (h : Follows n l none ⟨.shifting, none, some (r, k)⟩ s) (hk : k < 36 * n) (b : Byte) :
    (emit b s).KeepsOrder n l (Follows n l none ⟨.shifting, none, some (r, k + 1)⟩) (Follows n l none ⟨.shifting, none, none⟩) := by
  rcases emit_cases b s with ⟨-, heq⟩ | ⟨-, -, heq⟩ | ⟨-, -, heq⟩ | ⟨-, -, heq⟩ <;> rw [heq]
  · exact h.assertReset
  · have hwaiting : Follows n l none ⟨.shifting, none, some (r, k)⟩ s.byteUnanswered := h.of_eq h.pending rfl rfl rfl rfl rfl
    simp only [Progress.KeepsOrder]
    split
    · exact hwaiting.assertReset
    · exact hwaiting.orderStep rfl (by simp) (by simp)
  · exact h.byteAnswered hk b .ok
  · exact h.byteAnswered hk b .fail

/-- Bytes that make the row whole. -/
theorem sendAll_keepsOrder {r k : Nat} {bs : List Byte} (h : Follows n l none ⟨.shifting, none, some (r, k)⟩ s)
    (hwhole : k + bs.length = 36 * n) :
    (sendAll bs s).KeepsOrder n l (Follows n l none ⟨.shifting, none, some (r, 36 * n)⟩)
      (Follows n l none ⟨.shifting, none, none⟩) := by
  induction bs generalizing k s with
  | nil => exact hwhole ▸ h
  | cons b bs ih =>
    rw [List.length_cons] at hwhole
    exact (emit_keepsOrder h (by omega) b).andThen fun t ht => ih ht (by omega)

/-- A row's shift sends as many bytes as make the row whole (42_bit_packer.md R168). -/
theorem shiftRow_keepsOrder {run : Option (Nat × Nat)} (h : Follows n l none ⟨.idle, none, run⟩ s) (r : Nat) :
    (shiftRow r s).KeepsOrder n l (Follows n l none ⟨.shifting, none, some (r, 36 * n)⟩)
      (Follows n l none ⟨.shifting, none, none⟩) := by
  have hentered := h.enterPhase (q := .shifting) (r := r) rfl rfl (by simp)
  have hstart : Follows n l none ⟨.shifting, none, some (r, 0)⟩ (s.enterPhase .shifting r).endShift :=
    hentered.of_eq hentered.pending rfl rfl rfl rfl rfl
  have hwhole : 0 + (bytesOf s r).length = 36 * n := by rw [length_bytesOf, Nat.zero_add, ← h.chips]; rfl
  have hsend := sendAll_keepsOrder hstart hwhole
  have htracks := rowTransmission_tracks r s
  rw [shiftRow]
  generalize (pushWalk _ _).andThen flush = p at htracks ⊢
  generalize sendAll _ _ = q at htracks hsend
  cases htracks with
  | ok => exact hsend
  | fail => exact hsend
  | halted => exact hsend

/-- A pulse of a row that was shifted whole never fails, and leaves the row latched. -/
theorem pulse_keepsOrder {r : Nat} (h : Follows n l row ⟨.latching, none, some (r, 36 * n)⟩ s) {F : State → Prop} :
    (pulse r s).KeepsOrder n l (Follows n l row ⟨.latching, none, none⟩) F := by
  simp only [pulse]
  split
  · exact h.assertReset
  · split
    · exact (h.lineUp r).assertReset
    · exact (h.lineUp r).lineDown.latchPulse

/-! ### The commands -/

/-- Idle, with no line at 1, and with a pending row only if it was shifted whole by the last shift and not latched since: where a command
begins and where it responds. -/
def Settled (n : Nat) (l : List Event) (s : State) : Prop :=
  ∃ run, Follows n l s.pendingRow ⟨.idle, none, run⟩ s ∧ ∀ r, s.pendingRow = some r → run = some (r, 36 * n)

/-- With no row pending nothing is asked of the last shift. -/
theorem Follows.settled {run : Option (Nat × Nat)} (h : Follows n l none ⟨.idle, none, run⟩ s) : Settled n l s :=
  ⟨run, h.pending.symm ▸ h, fun r hr => by simp [h.pending] at hr⟩

theorem Settled.noPending (h : Settled n l s) : ∃ run, Follows n l none ⟨.idle, none, run⟩ { s with pendingRow := none } := by
  obtain ⟨run, hfollows, -⟩ := h
  exact ⟨run, hfollows.of_eq rfl rfl rfl rfl rfl rfl⟩

theorem Settled.withData (h : Settled n l s) (gs : Table Gray) (po : Table PinOrder) :
    Settled n l { s with gs := gs, po := po } := by
  obtain ⟨run, hfollows, hrun⟩ := h
  exact ⟨run, hfollows.of_eq rfl rfl rfl rfl rfl rfl, hrun⟩

theorem Settled.respond (h : Settled n l s) (op : BitVec 8) (st : Status) (c : Nat) (d0 d1 d2 : Gray) :
    OrderStep n l (respond op st c d0 d1 d2 s) := by
  obtain ⟨run, hfollows, hrun⟩ := h
  rcases respond_cases op st c d0 d1 d2 s with ⟨-, heq⟩ | ⟨-, heq⟩ <;> rw [heq]
  · exact hfollows.assertReset
  · have hnext : Monitor.next n ⟨.idle, none, run⟩ (.resp (responseWord op st c d0 d1 d2)) = some ⟨.idle, none, run⟩ := by
      simp [Monitor.next]
    refine Follows.orderStep (m := ⟨.idle, none, run⟩) ?_ rfl (by simp) hrun
    exact hfollows.record hnext (by simp) rfl rfl rfl rfl hfollows.phase hfollows.latch

theorem Settled.raise (h : Settled n l s) (op : BitVec 8) (e : Status) : OrderStep n l (raise op e s) := h.respond ..

theorem limitAndCommit_keepsOrder (h : Settled n l s) (op : BitVec 8) (cand : List (Nat × Gray)) :
    OrderStep n l (limitAndCommit op cand s) :=
  (h.withData _ s.po).respond ..

theorem setter_keepsOrder (h : Settled n l s) (op : BitVec 8) (inRange : Bool) (cand : List (Nat × Gray)) :
    OrderStep n l (setter op inRange cand s) := by
  rcases setter_cases op inRange cand s with ⟨-, heq⟩ | ⟨-, heq⟩ <;> rw [heq]
  · exact h.raise ..
  · exact limitAndCommit_keepsOrder h ..

theorem commitPinOrder_keepsOrder (h : Settled n l s) (op : BitVec 8) (leds : List Nat) (o : PinOrder) :
    OrderStep n l (commitPinOrder op leds o s) :=
  (h.withData s.gs _).respond ..

theorem execShiftRow_keepsOrder (h : Settled n l s) (r : Nat) : Ensures (OrderStep n l) (execShiftRow r s) := by
  simp only [execShiftRow, Ensures]
  split
  · obtain ⟨run, hfollows⟩ := h.noPending
    have hshift := shiftRow_keepsOrder hfollows r
    split <;> rename_i t heq <;> rw [heq] at hshift
    · have hidle : Follows n l none ⟨.idle, none, some (r, 36 * n)⟩ (t.enterPhase .idle r) :=
        Follows.enterPhase hshift rfl rfl (by simp)
      have hpending : Settled n l { t.enterPhase .idle r with pendingRow := some r } :=
        ⟨_, hidle.of_eq rfl rfl rfl rfl rfl rfl, fun q hq => by rw [← Option.some.inj hq]⟩
      exact hpending.respond ..
    · exact (Follows.enterPhase hshift (q := .idle) rfl rfl (by simp)).settled.respond ..
    · exact hshift
  · exact h.raise ..

theorem latchRow_keepsOrder (h : Settled n l s) (r : Nat) : OrderStep n l (latchRow r s) := by
  unfold latchRow
  split
  · split
    · obtain ⟨run, hfollows, hrun⟩ := h
      obtain rfl := hrun r ‹_›
      have hpulse := pulse_keepsOrder (hfollows.enterPhase (q := .latching) (r := r) rfl rfl fun _ => rfl) (F := fun _ => False)
      split <;> rename_i t heq <;> rw [heq] at hpulse
      · have hidle : Follows n l s.pendingRow ⟨.idle, none, none⟩ (t.enterPhase .idle r) :=
          Follows.enterPhase hpulse rfl rfl (by simp)
        have hlatched : Follows n l none ⟨.idle, none, none⟩ { t.enterPhase .idle r with pendingRow := none } :=
          hidle.of_eq rfl rfl rfl rfl rfl rfl
        exact hlatched.settled.respond ..
      · exact hpulse.elim
      · exact hpulse
    · exact h.raise ..
  · exact h.raise ..

/-- The rows of UPDATE, each latched before the next is shifted (43_latch.md R184). -/
theorem updateRows_keepsOrder (rs : List Nat) {run : Option (Nat × Nat)} (h : Follows n l none ⟨.idle, none, run⟩ s) :
    (updateRows rs s).KeepsOrder n l (Settled n l) (Settled n l) := by
  induction rs generalizing s run with
  | nil => exact h.settled
  | cons r rs ih =>
    have hshift := shiftRow_keepsOrder h r
    unfold updateRows
    split <;> rename_i heq <;> rw [heq] at hshift
    · have hlatching := Follows.enterPhase hshift (q := .latching) (r := r) rfl rfl fun _ => rfl
      exact (pulse_keepsOrder hlatching).andThen fun t ht => ih (ht.enterPhase (q := .idle) rfl rfl (by simp))
    · exact (Follows.enterPhase hshift (q := .idle) rfl rfl (by simp)).settled
    · exact hshift

theorem updateAll_keepsOrder (h : Settled n l s) : OrderStep n l (updateAll s) := by
  obtain ⟨run, hfollows⟩ := h.noPending
  have hrows := updateRows_keepsOrder (rowSeq s.cfg) hfollows
  unfold updateAll
  split <;> rename_i heq <;> rw [heq] at hrows
  · exact Settled.respond hrows ..
  · exact Settled.respond hrows ..
  · exact hrows

theorem withLatchCtrl_keepsOrder (h : Settled n l s) (op : BitVec 8) {run : State → State} (hrun : OrderStep n l (run s)) :
    OrderStep n l (withLatchCtrl op run s) := by
  rcases withLatchCtrl_cases op run s with ⟨-, heq⟩ | ⟨-, heq⟩ <;> rw [heq]
  · exact hrun
  · exact h.raise ..

/-- Every command keeps the order of outputs. -/
theorem exec_keepsOrder (h : Settled n l s) (i : Instr) : Ensures (OrderStep n l) (exec i s) := by
  cases i with
  | setAll _ | setAllRgb _ _ _ | setLedMono _ _ | setLedRgb _ _ _ _ | setLedAppend _ _ _ _ | setChannel _ _ =>
    exact setter_keepsOrder h ..
  | getChannel _ _ | getLed _ _ =>
    simp only [exec, execGetChannel, execGetLed, Ensures]
    split <;> exact h.respond ..
  | enforceMaxCurrent => exact limitAndCommit_keepsOrder h ..
  | setPinOrder _ _ _ _ =>
    simp only [exec, execSetPinOrder, Ensures]
    split
    · split
      · exact commitPinOrder_keepsOrder h ..
      · exact h.raise ..
    · exact h.raise ..
  | setPinOrderAll _ _ _ =>
    simp only [exec, execSetPinOrderAll, Ensures]
    split
    · exact commitPinOrder_keepsOrder h ..
    · exact h.raise ..
  | shiftRow r => exact execShiftRow_keepsOrder h r
  | latch r => exact withLatchCtrl_keepsOrder h _ (latchRow_keepsOrder h r)
  | update => exact withLatchCtrl_keepsOrder h _ (updateAll_keepsOrder h)

theorem runWord_keepsOrder (h : Settled n l s) (w : Word) : Ensures (OrderStep n l) (runWord w s) := by
  unfold runWord
  split
  · exact exec_keepsOrder h _
  · exact h.raise ..

end

/-! ### The step -/

/-- A state outside reset that keeps the order begins a step with the record that it has. -/
theorem State.OrderKept.follows {s : State} (h : s.OrderKept) (hr : s.inReset = false) :
    ∃ m, Follows (chipsPerRow s.cfg) s.log s.pendingRow m s ∧ m.high = none ∧ m.phase ≠ .latching ∧
      ∀ r, s.pendingRow = some r → m.run = some (r, 36 * chipsPerRow s.cfg) := by
  obtain ⟨m, hmonitor, hhigh, hlatch, hstate⟩ := h
  simp only [hr, Bool.false_eq_true, if_false] at hstate
  obtain ⟨hphase, hnot, hrun⟩ := hstate
  have hlines : s.latch = m.lines := by rw [hlatch, Monitor.lines, hhigh]
  exact ⟨m, ⟨rfl, hr, rfl, ⟨[], by simp⟩, hmonitor, hphase.symm, hlines⟩, hhigh, hphase ▸ hnot, hrun⟩

theorem State.OrderKept.settled {s : State} (h : s.OrderKept) (hr : s.inReset = false) (hp : s.phase = .idle) :
    Settled (chipsPerRow s.cfg) s.log s := by
  obtain ⟨⟨phase, high, run⟩, hfollows, rfl, -, hrun⟩ := h.follows hr
  obtain rfl : phase = .idle := hfollows.phase.symm.trans hp
  exact ⟨run, hfollows, hrun⟩

/-- A release goes on with a record whose last entry is the assertion, whatever the configuration was. -/
theorem released_orderKept {s : State} (h : s.OrderKept) (hr : s.inReset = true) : s.released.OrderKept := by
  obtain ⟨m, -, -, -, hlast⟩ := h
  rw [if_pos hr] at hlast
  obtain ⟨es, hes⟩ := List.getLast?_eq_some_iff.mp hlast
  refine ⟨Monitor.start, ?_, rfl, rfl, by simp [Monitor.start]⟩
  rw [State.released_log, hes, monitorFrom_reset]

end Sys2Proof.Machine

namespace Sys2Proof.Proofs

open Sys2Proof.Machine

/-- Settles O46: a release adds nothing to a record that ends with the assertion, and the monitor follows every other step from its
start to its end. -/
theorem stepKeepsTheOrderOfOutputs : Obligations.StepKeepsTheOrderOfOutputs := by
  unfold Obligations.StepKeepsTheOrderOfOutputs
  intro s t hkept hstep
  rcases step_cases hstep with ⟨hr, -, rfl⟩ | ⟨hr, -, rfl⟩ | ⟨hr, -, -, -, -, rfl⟩ | ⟨w, rest, hr, -, hp, -, -, hrun⟩
  · have hreleased := released_orderKept hkept hr
    obtain ⟨m, hmonitor, -⟩ := hkept
    exact ⟨hreleased, [], by simp, by rw [hmonitor]; rfl⟩
  · obtain ⟨m, hfollows, -⟩ := hkept.follows hr
    exact hfollows.assertReset
  · obtain ⟨m, hfollows, hhigh, hphase, hpending⟩ := hkept.follows hr
    have htaken : Follows (chipsPerRow s.cfg) s.log s.pendingRow m s.responseTaken := hfollows.of_eq rfl rfl rfl rfl rfl rfl
    exact htaken.orderStep hhigh hphase hpending
  · obtain ⟨run, hfollows, hpending⟩ := hkept.settled hr hp
    have haccepted : Settled (chipsPerRow s.cfg) s.log (s.commandAccepted rest) :=
      ⟨run, hfollows.of_eq rfl rfl rfl rfl rfl rfl, hpending⟩
    have hword := runWord_keepsOrder haccepted w
    rw [hrun] at hword
    exact hword

end Sys2Proof.Proofs

/-! SUPPORT. Proofs of the statements of 43_latch.md about LATCH and UPDATE (R186 to R194): a row of UPDATE whose bytes are all accepted, in
one equation, and the rows of UPDATE one after another. -/

namespace Sys2Proof.Machine

open Sys2Proof.Claims

/-! ### The build without the latch controller (43_latch.md R190) -/

theorem withLatchCtrl_of_hasNot {s : State} (h : s.cfg.hasLatchCtrl = false) (op : BitVec 8) (run : State → State) :
    withLatchCtrl op run s = raise op .illegalCommand s := by
  simp [withLatchCtrl, h]

/-- A command that needs the controller raises ILLEGAL_COMMAND in a build without it, whatever its operand (30_encoding.md R85 case 3). -/
theorem exec_of_hasNotLatchCtrl {i : Instr} {s : State} (h : s.cfg.hasLatchCtrl = false) (hi : needsLatchCtrl i = true) :
    exec i s = .next (raise i.opcode.code .illegalCommand s) := by
  cases i with
  | latch r => exact congrArg _ (withLatchCtrl_of_hasNot h ..)
  | update => exact congrArg _ (withLatchCtrl_of_hasNot h ..)
  | _ => simp [needsLatchCtrl] at hi

/-! ### LATCH (43_latch.md R188) -/

section
variable {r : Nat} {s : State}

theorem exec_latch_of_notPending (hctrl : s.cfg.hasLatchCtrl = true) (hr : r < rows s.cfg) (hrow : s.pendingRow ≠ some r) :
    exec (.latch r) s = .next (raise 0x0D .notReady s) := by
  rw [exec, execLatch, withLatchCtrl_of_has hctrl, latchRow, if_pos (rowInRange_iff.mpr hr), if_neg hrow]
  rfl

/-- With no reset coming and every line at 0, the pending row is pulsed between the two phase changes. -/
theorem exec_latch_of_pending (hs : NoReset s) (hctrl : s.cfg.hasLatchCtrl = true) (hr : r < rows s.cfg)
    (hrow : s.pendingRow = some r) (hlatch : s.latch = []) :
    exec (.latch r) s = .next { s with
      phase := .idle
      pendingRow := none
      rspPort := some (responseWord 0x0D .ok 0 0 0 0)
      log := s.log ++ [.phase s.phase .latching r, .line r true, .line r false, .latchPulse r, .phase .latching .idle r,
        .resp (responseWord 0x0D .ok 0 0 0 0)] } := by
  have hpulse := pulse_eq (s := s.enterPhase .latching r) hs hlatch r
  rw [exec, execLatch, withLatchCtrl_of_has hctrl, latchRow, if_pos (rowInRange_iff.mpr hr), if_pos hrow, hpulse]
  refine congrArg _ ((respond_eq (by exact hs) ..).trans ?_)
  simp [State.enterPhase, State.logged, Opcode.code]

end

/-! ### The rows of UPDATE (43_latch.md R184, R186) -/

theorem oks_add (a b : Nat) : oks (a + b) = oks a ++ oks b := List.replicate_add ..

section
variable {s : State}

/-- A row every byte of which the transport accepts is shifted and latched, and UPDATE goes on with the rows after it. -/
theorem updateRows_cons_of_oks (r : Nat) (later : List Nat) {rs : List Reply} (hs : NoReset s) (hphase : s.phase = .idle)
    (hlatch : s.latch = []) (hreplies : s.replies = oks (rowLen s) ++ rs) :
    updateRows (r :: later) s = updateRows later { s with
      accum := ⟨0, 0⟩
      cursor := none
      replies := rs
      attempts := s.attempts + rowLen s
      log := s.log ++ rowEvents s r } := by
  rw [updateRows, shiftRow_of_oks r hs hreplies]
  dsimp only
  rw [pulse_eq (by exact hs) (by exact hlatch), Progress.andThen_ok]
  simp [State.enterPhase, State.logged, rowEvents, hphase]

/-- Rows every byte of which the transport accepts, one after another. The packer's registers are at rest once there was a row. -/
theorem updateRows_append_of_oks (done later : List Nat) {rs : List Reply} (hs : NoReset s) (hphase : s.phase = .idle)
    (hlatch : s.latch = []) (hreplies : s.replies = oks (done.length * rowLen s) ++ rs) :
    ∃ a k, (done ≠ [] → a = ⟨0, 0⟩ ∧ k = none) ∧
      updateRows (done ++ later) s = updateRows later { s with
        accum := a
        cursor := k
        replies := rs
        attempts := s.attempts + done.length * rowLen s
        log := s.log ++ done.flatMap (rowEvents s) } := by
  induction done using List.reverseRecOn generalizing later rs with
  | nil =>
    obtain rfl : s.replies = rs := by simpa [oks] using hreplies
    exact ⟨s.accum, s.cursor, by simp, by simp⟩
  | append_singleton done r ih =>
    rw [List.length_append, List.length_singleton, Nat.succ_mul, oks_add, List.append_assoc] at hreplies
    obtain ⟨a, k, -, hdone⟩ := ih (r :: later) hreplies
    have hrow := updateRows_cons_of_oks r later (s := { s with
      accum := a
      cursor := k
      replies := oks (rowLen s) ++ rs
      attempts := s.attempts + done.length * rowLen s
      log := s.log ++ done.flatMap (rowEvents s) }) hs hphase hlatch rfl
    refine ⟨⟨0, 0⟩, none, fun _ => ⟨rfl, rfl⟩, ?_⟩
    rw [List.append_assoc, List.singleton_append, hdone, hrow]
    simp only [List.length_append, List.length_singleton, Nat.succ_mul, List.flatMap_append, List.flatMap_singleton,
      Nat.add_assoc, List.append_assoc]
    rfl

/-- A row whose byte `k` is the first that the transport refuses ends UPDATE's rows in IDLE, without a pulse. -/
theorem updateRows_cons_of_fail {r k : Nat} (later : List Nat) {rs : List Reply} (hk : k < rowLen s) (hs : NoReset s)
    (hphase : s.phase = .idle) (hreplies : s.replies = oks k ++ .answer .fail :: rs) :
    updateRows (r :: later) s = .fail { s with
      accum := ⟨0, 0⟩
      cursor := none
      replies := rs
      attempts := s.attempts + k + 1
      log := s.log ++ ([.phase .idle .shifting r] ++ bytesOk ((bytesOf s r).take k) ++
        [.byte ((bytesOf s r).getD k 0) .fail, .phase .shifting .idle r]) } := by
  rw [updateRows, shiftRow_of_fail hk hs hreplies]
  simp [State.enterPhase, State.logged, hphase]

/-! ### UPDATE (43_latch.md R186) -/

/-- UPDATE in a build with the controller, when every row is latched. -/
theorem exec_update_of_ok {t : State} (hctrl : s.cfg.hasLatchCtrl = true)
    (hrows : updateRows (rowSeq s.cfg) { s with pendingRow := none } = .ok t) (ht : NoReset t) :
    exec .update s = .next (answered t (responseWord 0x0E .ok 0 0 0 0)) := by
  simp only [exec, execUpdate, withLatchCtrl_of_has hctrl, updateAll, hrows]
  exact congrArg _ (respond_eq_answered ht ..)

/-- UPDATE in a build with the controller, when a row's shift fails (60_exceptions.md R209). -/
theorem exec_update_of_fail {t : State} (hctrl : s.cfg.hasLatchCtrl = true)
    (hrows : updateRows (rowSeq s.cfg) { s with pendingRow := none } = .fail t) (ht : NoReset t) :
    exec .update s = .next (answered t (responseWord 0x0E .transportError 0 0 0 0)) := by
  simp only [exec, execUpdate, withLatchCtrl_of_has hctrl, updateAll, hrows]
  exact congrArg _ (respond_eq_answered ht ..)

theorem length_rowSeq (c : Config) : (rowSeq c).length = rows c := by
  simp [rowSeq]

/-- With one row there is one order. -/
theorem rowSeq_of_one {c : Config} (h : rows c = 1) : rowSeq c = [0] := by
  cases horder : c.rowOrder <;> simp [rowSeq, directed, h, horder]

end

/-! ### What an observer sees (43_latch.md R194) -/

@[simp] theorem observable_bytesOk (bs : List Byte) : (bytesOk bs).filter Event.observable = bytesOk bs :=
  List.filter_eq_self.mpr (by simp [bytesOk, Event.observable])

theorem observable_rowEvents (s : State) (r : Nat) : (rowEvents s r).filter Event.observable = rowTrace s r := by
  simp [rowEvents, rowTrace, List.filter_cons, Event.observable]

end Sys2Proof.Machine

namespace Sys2Proof.Proofs

open Sys2Proof.Machine Sys2Proof.Claims

/-- Settles O32: the controller is looked for before anything else, and a raise with no reset coming is a response only. -/
theorem noLatchControllerRefusesLatchAndUpdate : Obligations.NoLatchControllerRefusesLatchAndUpdate := by
  unfold Obligations.NoLatchControllerRefusesLatchAndUpdate
  intro i s hs hctrl hi
  rw [exec_of_hasNotLatchCtrl hctrl hi, raise_eq_raised hs]

/-- Settles O41: the controller, the range and the readiness are checked in turn, and the pulse is one equation. -/
theorem latchPulsesOnlyThePendingRow : Obligations.LatchPulsesOnlyThePendingRow := by
  unfold Obligations.LatchPulsesOnlyThePendingRow
  refine fun r s hs => ⟨rfl, exec_latch_of_pending hs, fun hctrl hr hrow => ?_, fun hctrl hr => ?_, fun hctrl => ?_⟩
  · rw [exec_latch_of_notPending hctrl hr hrow, raise_eq_raised hs]
  · exact outOfRangeChangesNothing (.latch r) s hs (fun _ => hctrl) hr
  · exact noLatchControllerRefusesLatchAndUpdate (.latch r) s hs hctrl rfl

/-- Settles O42: every row of `RowSeq` is done, and the response ends the command. -/
theorem updateShiftsAndLatchesEveryRow : Obligations.UpdateShiftsAndLatchesEveryRow := by
  unfold Obligations.UpdateShiftsAndLatchesEveryRow
  intro s rs hs hctrl hpos hphase hlatch hreplies
  have hsome : rowSeq s.cfg ≠ [] := List.ne_nil_of_length_pos (by rwa [length_rowSeq])
  obtain ⟨a, k, hrest, hrows⟩ := updateRows_append_of_oks (rowSeq s.cfg) [] (s := { s with pendingRow := none }) (rs := rs)
    hs hphase hlatch (by rw [length_rowSeq]; exact hreplies)
  obtain ⟨rfl, rfl⟩ := hrest hsome
  rw [List.append_nil, length_rowSeq] at hrows
  exact ⟨rfl, exec_update_of_ok hctrl hrows hs⟩

/-- Settles O43: the rows before are done, and the refused byte ends the rows there. -/
theorem updateStopsAtTheFailedByte : Obligations.UpdateStopsAtTheFailedByte := by
  unfold Obligations.UpdateStopsAtTheFailedByte
  intro s done later r k rs hs hctrl hphase hlatch hseq hk hreplies
  rw [oks_add, List.append_assoc] at hreplies
  obtain ⟨a, c, -, hdone⟩ := updateRows_append_of_oks done (r :: later) (s := { s with pendingRow := none }) hs hphase hlatch
    hreplies
  have hrows := hdone.trans (updateRows_cons_of_fail later (by exact hk) hs hphase rfl)
  rw [← hseq] at hrows
  refine (exec_update_of_fail hctrl hrows hs).trans ?_
  simp only [answered, List.append_assoc, List.cons_append, List.nil_append]
  rfl

/-- Settles O44: of the record of each row the observer sees its bytes and its pulse. -/
theorem updateTrace : Obligations.UpdateTrace := by
  unfold Obligations.UpdateTrace
  intro s t rs hs hctrl hpos hphase hlatch hreplies hexec
  obtain ⟨-, hupdate⟩ := updateShiftsAndLatchesEveryRow s rs hs hctrl hpos hphase hlatch hreplies
  obtain rfl := Host.Outcome.next.inj (hexec.symm.trans hupdate)
  simp only [State.trace, List.filter_append, List.filter_flatMap, observable_rowEvents]
  rfl

/-- Settles O45: the three commands' next states, with `RowSeq` the one row 0. -/
theorem updateOfOneRowIsShiftThenLatch : Obligations.UpdateOfOneRowIsShiftThenLatch := by
  unfold Obligations.UpdateOfOneRowIsShiftThenLatch
  intro s rs hs hctrl hone hphase hlatch hreplies
  have hrow : 0 < rows s.cfg := by omega
  obtain ⟨-, hupdate⟩ := updateShiftsAndLatchesEveryRow s rs hs hctrl hrow hphase hlatch (by rwa [hone, Nat.one_mul])
  obtain ⟨-, -, hshift⟩ := shiftRowEmitsRowBytes 0 s rs hs hrow hreplies
  refine ⟨_, _, _, hupdate, hshift, exec_latch_of_pending hs hctrl hrow rfl hlatch, by simp [hone, hphase],
    responseWord 0x0E .ok 0 0 0 0, responseWord 0x0C .ok 0 0 0 0, responseWord 0x0D .ok 0 0 0 0, ?_, ?_⟩
  · simp [State.trace, rowSeq_of_one hone, observable_rowEvents, rowTrace, Event.observable]
  · simp [State.trace, List.filter_cons, Event.observable]

end Sys2Proof.Proofs

/-! SUPPORT. Proofs of the statements of 60_exceptions.md: what a command can do to the two ports, said once for every command (R201, R206),
the illegal words (R202), and SHIFT_ROW under any answers (R205). -/

namespace Sys2Proof.Machine

open Sys2Proof.Claims

/-! ### What a command does to the ports (60_exceptions.md R201, R206) -/

theorem statusCode_injective {st st' : Status} (h : statusCode st = statusCode st') : st = st' := by
  revert h
  cases st <;> cases st' <;> decide

/-- A response word tells its status (30_encoding.md R87, R88). -/
theorem status_of_responseWord_eq {op op' : BitVec 8} {st st' : Status} {n n' : Nat} {d0 d1 d2 d0' d1' d2' : Gray}
    (h : responseWord op st n d0 d1 d2 = responseWord op' st' n' d0' d1' d2') : st = st' :=
  statusCode_injective (by simpa [responseWord_eq] using congrArg opField h)

/-- From `s` to `t` the offered words stay, and the response port is left alone or gets a response, which is OUT_OF_RANGE only when
`failed` holds. -/
structure PortStep (failed : Prop) (s t : State) : Prop where
  offered : t.offered = s.offered
  rspPort : t.rspPort = s.rspPort ∨
    ∃ op st n d0 d1 d2, t.rspPort = some (responseWord op st n d0 d1 d2) ∧ (st = .outOfRange → failed)

section
variable {failed : Prop} {s : State} {op : BitVec 8}

/-- A command that reset aborts before its response leaves the port alone; any other answers with its status. -/
theorem respond_portStep {st : Status} {n : Nat} {d0 d1 d2 : Gray} {t : State} (hoffered : t.offered = s.offered)
    (hport : t.rspPort = s.rspPort) (hst : st = .outOfRange → failed) : PortStep failed s (respond op st n d0 d1 d2 t) := by
  refine ⟨(respond_offered ..).trans hoffered, ?_⟩
  rcases respond_cases op st n d0 d1 d2 t with ⟨-, heq⟩ | ⟨-, heq⟩ <;> rw [heq]
  · exact .inl hport
  · exact .inr ⟨op, st, n, d0, d1, d2, rfl, hst⟩

theorem raise_portStep {e : Status} (he : e = .outOfRange → failed) : PortStep failed s (raise op e s) :=
  respond_portStep rfl rfl he

theorem setter_portStep {inRange : Bool} {cand : List (Nat × Gray)} (hcheck : ¬ inRange = true → failed) :
    PortStep failed s (setter op inRange cand s) := by
  rcases setter_cases op inRange cand s with ⟨hout, heq⟩ | ⟨-, heq⟩ <;> rw [heq]
  · exact raise_portStep fun _ => hcheck (by simp [hout])
  · exact respond_portStep rfl rfl (by simp)

theorem commitPinOrder_portStep {leds : List Nat} {o : PinOrder} : PortStep failed s (commitPinOrder op leds o s) :=
  respond_portStep rfl rfl (by simp)

theorem withLatchCtrl_portStep {run : State → State} (hrun : PortStep failed s (run s)) :
    PortStep failed s (withLatchCtrl op run s) := by
  rcases withLatchCtrl_cases op run s with ⟨-, heq⟩ | ⟨-, heq⟩ <;> rw [heq]
  · exact hrun
  · exact raise_portStep (by simp)

theorem not_perm_of_ofSlots?_eq_none {p0 p1 p2 : Nat} (h : PinOrder.ofSlots? p0 p1 p2 = none) :
    ¬ [p0, p1, p2].Perm [0, 1, 2] :=
  mt isSome_ofSlots?_iff_perm.mpr (by simp [h])

theorem execShiftRow_portStep (r : Nat) (s : State) : Ensures (PortStep (r ≥ rows s.cfg) s) (execShiftRow r s) := by
  simp only [execShiftRow, Ensures]
  split
  · obtain ⟨-, -, -, -, hport, hoffered, -⟩ := shiftRow_keeps r { s with pendingRow := none }
    split <;> rename_i heq <;> rw [heq] at hport hoffered
    · exact respond_portStep hoffered hport (by simp)
    · exact respond_portStep hoffered hport (by simp)
    · exact ⟨hoffered, .inl hport⟩
  · exact raise_portStep fun _ => Nat.not_lt.mp (mt rowInRange_iff.mpr ‹_›)

theorem latchRow_portStep (r : Nat) (s : State) : PortStep (r ≥ rows s.cfg) s (latchRow r s) := by
  unfold latchRow
  split
  · split
    · obtain ⟨-, -, -, -, hport, hoffered, -⟩ := pulse_keeps r (s.enterPhase .latching r)
      split <;> rename_i heq <;> rw [heq] at hport hoffered
      · exact respond_portStep hoffered hport (by simp)
      · exact ⟨hoffered, .inl hport⟩
      · exact ⟨hoffered, .inl hport⟩
    · exact raise_portStep (by simp)
  · exact raise_portStep fun _ => Nat.not_lt.mp (mt rowInRange_iff.mpr ‹_›)

theorem updateAll_portStep (s : State) : PortStep failed s (updateAll s) := by
  obtain ⟨-, -, -, -, hport, hoffered, -⟩ := updateRows_keeps (rowSeq s.cfg) { s with pendingRow := none }
  unfold updateAll
  split <;> rename_i heq <;> rw [heq] at hport hoffered
  · exact respond_portStep hoffered hport (by simp)
  · exact respond_portStep hoffered hport (by simp)
  · exact ⟨hoffered, .inl hport⟩

/-- No command takes an offered word, and a command answers OUT_OF_RANGE only when its operands fail a check of R201. -/
theorem exec_portStep (i : Instr) (s : State) : Ensures (PortStep (outOfRange (chips s.cfg) (rows s.cfg) i) s) (exec i s) := by
  cases i with
  | setAll _ | setAllRgb _ _ _ | setLedMono _ _ | setLedRgb _ _ _ _ | setLedAppend _ _ _ _ | setChannel _ _ =>
    refine setter_portStep fun hcheck => ?_
    simp only [outOfRange, Bool.and_eq_true, ledInRange_iff, channelInRange_iff, valueInRange_iff] at hcheck ⊢
    omega
  | getChannel _ _ | getLed _ _ =>
    simp only [exec, execGetChannel, execGetLed, Ensures]
    split
    · exact respond_portStep rfl rfl (by simp)
    next hcheck =>
      refine raise_portStep fun _ => ?_
      simp only [outOfRange, Bool.and_eq_true, ledInRange_iff, chipInRange_iff, decide_eq_true_eq] at hcheck ⊢
      omega
  | enforceMaxCurrent => exact respond_portStep rfl rfl (by simp)
  | setPinOrder led p0 p1 p2 =>
    simp only [exec, execSetPinOrder, Ensures]
    split
    · split
      · exact commitPinOrder_portStep
      · exact raise_portStep fun _ => .inl (Nat.not_lt.mp (mt ledInRange_iff.mpr ‹_›))
    · exact raise_portStep fun _ => .inr (not_perm_of_ofSlots?_eq_none ‹_›)
  | setPinOrderAll p0 p1 p2 =>
    simp only [exec, execSetPinOrderAll, Ensures]
    split
    · exact commitPinOrder_portStep
    · exact raise_portStep fun _ => not_perm_of_ofSlots?_eq_none ‹_›
  | shiftRow r => exact execShiftRow_portStep r s
  | latch r => exact withLatchCtrl_portStep (latchRow_portStep r s)
  | update => exact withLatchCtrl_portStep (updateAll_portStep s)

/-- Running a word, legal or not, takes no further word from the port (R206). -/
theorem runWord_offered (w : Word) (s : State) : Ensures (fun t => t.offered = s.offered) (runWord w s) := by
  unfold runWord
  split
  next i _ =>
    obtain ⟨t, ht⟩ := exec_next i s
    have hports := exec_portStep i s
    rw [ht] at hports ⊢
    exact hports.offered
  next => exact respond_offered ..

end

/-! ### Illegal words (60_exceptions.md R202) -/

/-- No opcode has a code outside the opcode map (30_encoding.md R83, R85 case 1). -/
theorem code_inMap (o : Opcode) : ¬ (o.code = 0x00 ∨ 0x0F ≤ o.code.toNat) := by
  cases o <;> decide

theorem code_injective {o o' : Opcode} (h : o.code = o'.code) : o = o' :=
  Option.some.inj ((Opcode.ofField?_eq_some.mpr rfl).symm.trans (Opcode.ofField?_eq_some.mpr h))

theorem needsLatchCtrl_of_code {i : Instr} (h : i.opcode.code = 0x0D ∨ i.opcode.code = 0x0E) : needsLatchCtrl i = true := by
  cases i with
  | latch _ | update => rfl
  | _ => simp [Instr.opcode, Opcode.code] at h

/-- A command decoded from an illegal word is one that needs the latch controller, in a build without it: R85's other two cases do not
decode. -/
theorem needsLatchCtrl_of_illegalWord {c : Config} {w : Word} {i : Instr} (h : IllegalWord c w) (hdecode : decode w = .ok i) :
    c.hasLatchCtrl = false ∧ needsLatchCtrl i = true := by
  obtain ⟨hop, hzero⟩ := (Proofs.decodesExactlyItsRow w i.opcode).mp ⟨i, hdecode, rfl⟩
  rcases h with hunknown | ⟨o, ho, b, hb, houtside, hone⟩ | ⟨hctrl, hcode⟩
  · exact absurd (hop ▸ hunknown) (code_inMap _)
  · have hrow : i.opcode = o := code_injective (hop.symm.trans ho)
    simp [hzero b hb (hrow ▸ houtside)] at hone
  · exact ⟨hctrl, needsLatchCtrl_of_code (hop ▸ hcode)⟩

/-- An illegal word raises ILLEGAL_COMMAND with its own `OP`, found in the decoder or by the check for the controller. -/
theorem runWord_of_illegal {w : Word} {s : State} (h : IllegalWord s.cfg w) :
    runWord w s = .next (raise (opField w) .illegalCommand s) := by
  cases hdecode : decode w with
  | error e => simp [runWord, hdecode]
  | ok i =>
    obtain ⟨hctrl, hneeds⟩ := needsLatchCtrl_of_illegalWord h hdecode
    obtain ⟨hop, -⟩ := (Proofs.decodesExactlyItsRow w i.opcode).mp ⟨i, hdecode, rfl⟩
    calc runWord w s = exec i s := runWord_of_decode hdecode s
      _ = .next (raise i.opcode.code .illegalCommand s) := exec_of_hasNotLatchCtrl hctrl hneeds
      _ = .next (raise (opField w) .illegalCommand s) := by rw [← hop]; rfl

/-! ### Taking a word and handing over a response (60_exceptions.md R206) -/

theorem commandAccepted_of_noReset {s : State} (hs : NoReset s) (rest : List Word) :
    s.commandAccepted rest = { s with offered := rest } :=
  State.tick_of_none (s := { s with offered := rest }) hs

theorem responseTaken_of_noReset {s : State} (hs : NoReset s) : s.responseTaken = { s with rspPort := none } :=
  State.tick_of_none (s := { s with rspPort := none }) hs

/-- An idle block with a response on the port does nothing but wait for the host to take it. -/
theorem step_of_response {s : State} {w : Word} (hreset : s.inReset = false) (hs : NoReset s) (hphase : s.phase = .idle)
    (hport : s.rspPort = some w) :
    step s = if s.hostReady then .next s.responseTaken else .fault .responseNotTaken := by
  simp [step, advance, waitForReset, hreset, hphase, hport, hs]

end Sys2Proof.Machine

namespace Sys2Proof.Proofs

open Sys2Proof.Machine Sys2Proof.Claims

/-- Settles O5: the ready block runs the word, and an illegal word raises ILLEGAL_COMMAND, which with no reset coming is a response only. -/
theorem illegalWordIsAnswered : Obligations.IllegalWordIsAnswered := by
  unfold Obligations.IllegalWordIsAnswered
  intro s w rest hready hs hoffered hillegal
  calc step s = runWord w (s.commandAccepted rest) := step_of_ready hready hoffered
    _ = .next (raise (opField w) .illegalCommand (s.commandAccepted rest)) := runWord_of_illegal hillegal
    _ = .next (raised { s with offered := rest } (opField w) .illegalCommand) := by
      rw [commandAccepted_of_noReset hs, raise_eq_raised (by exact hs)]

/-- Settles O31: from an empty port the response is the command's own, and its status tells that a check failed. -/
theorem outOfRangeOnlyByTheseChecks : Obligations.OutOfRangeOnlyByTheseChecks := by
  unfold Obligations.OutOfRangeOnlyByTheseChecks
  intro i s t _ hexec hanswer hempty
  have hports := exec_portStep i s
  rw [hexec] at hports
  rcases hports.rspPort with hkept | ⟨op, st, n, d0, d1, d2, hport, hfailed⟩
  · simp [hanswer, hempty] at hkept
  · exact hfailed (status_of_responseWord_eq (Option.some.inj (hport.symm.trans hanswer)))

/-- Settles O40: with no reset coming and a transport that answers the row's shift returns, and it keeps the data either way. -/
theorem shiftRowEndsUnderAnyAnswers : Obligations.ShiftRowEndsUnderAnyAnswers := by
  unfold Obligations.ShiftRowEndsUnderAnyAnswers
  intro r s hs hr hanswers
  have hreturns := shiftRow_running ((Running.start hs hanswers).withPending none) r
  have hkeeps := shiftRow_keeps r { s with pendingRow := none }
  cases hshift : shiftRow r { s with pendingRow := none } with
  | ok t =>
    rw [hshift] at hreturns hkeeps
    obtain ⟨hcfg, hgs, hpo, -⟩ := hkeeps
    exact ⟨_, exec_shiftRow_of_ok hr hshift (Running.noReset hreturns), hgs, hpo, hcfg, rfl, .inl ⟨rfl, rfl⟩⟩
  | fail t =>
    rw [hshift] at hreturns hkeeps
    obtain ⟨hcfg, hgs, hpo, hrow, -⟩ := hkeeps
    exact ⟨_, exec_shiftRow_of_fail hr hshift (Running.noReset hreturns), hgs, hpo, hcfg, rfl, .inr ⟨rfl, hrow⟩⟩
  | halted t =>
    rw [hshift] at hreturns
    exact hreturns.elim

/-- Settles O48: of the four things a step can do only running a word takes one, the oldest, and that needs an idle block with an empty
port outside reset. -/
theorem offeredWordsAreHeldInOrder : Obligations.OfferedWordsAreHeldInOrder := by
  unfold Obligations.OfferedWordsAreHeldInOrder
  intro s t hstep
  rcases step_cases hstep with ⟨-, -, rfl⟩ | ⟨-, -, rfl⟩ | ⟨-, -, -, -, -, rfl⟩ |
    ⟨w, rest, hr, -, hphase, hport, hoffered, hrun⟩
  · exact ⟨.inl rfl, fun _ => rfl⟩
  · exact ⟨.inl rfl, fun _ => rfl⟩
  · exact ⟨.inl rfl, fun _ => rfl⟩
  · have htaken := runWord_offered w (s.commandAccepted rest)
    rw [hrun] at htaken
    obtain rfl : t.offered = rest := htaken
    exact ⟨.inr ⟨w, hoffered⟩, fun hbusy => by simp [hr, hphase, hport] at hbusy⟩

/-- Settles O49: the step is the wait for the host, and with no reset coming the host alone can end it. -/
theorem responseWaitsForTheHost : Obligations.ResponseWaitsForTheHost := by
  unfold Obligations.ResponseWaitsForTheHost
  intro s w hreset hs hphase hport
  rw [step_of_response hreset hs hphase hport, responseTaken_of_noReset hs]
  exact ⟨fun hready => if_pos hready, fun hwaits => if_neg (by simp [hwaits])⟩

end Sys2Proof.Proofs

/-! SUPPORT. Proofs of the statements of 70_reset_and_hazards.md: how far a command has come some moments later, whether or not an
assertion of reset is on its way (`Onward`), and the two ways it ends there: reset aborts it (R232, `AbortedAfter`), or the transport never
answers (R245). -/

namespace Sys2Proof.Machine

open Sys2Proof.Claims

/-! ### Progress while reset may be on its way (70_reset_and_hazards.md R232) -/

/-- Reset is not asserted before `n` more moments have passed. -/
def State.NotDueBefore (s : State) (n : Nat) : Prop := ∀ d ∈ s.resetAfter, n ≤ d

/-- `t` is `s` further on in a command, `n` moments later: the observer has seen `es`, and the replies `rs` are still to come. -/
structure Onward (s : State) (n : Nat) (es : List Event) (rs : List Reply) (t : State) : Prop where
  keeps : KeepsData s t
  inReset : t.inReset = s.inReset
  countdown : t.resetAfter = s.resetAfter.map (· - n)
  trace : t.trace = s.trace ++ es
  replies : t.replies = rs

/-- Reset has aborted a command begun in `s`, after the observer had seen `es` of it: no response, every line low. -/
structure AbortedAfter (s : State) (es : List Event) (t : State) : Prop where
  inReset : t.inReset = true
  latch : t.latch = []
  rspPort : t.rspPort = s.rspPort
  trace : t.trace = s.trace ++ es
  last : .resetAsserted ∈ t.log.getLast?

/-- What an observer has seen since is the observable part of what was recorded since. -/
theorem trace_of_log {s t : State} {new es : List Event} (hlog : t.log = s.log ++ new) (hnew : new.filter Event.observable = es) :
    t.trace = s.trace ++ es := by
  rw [State.trace, hlog, List.filter_append, hnew, State.trace]

section
variable {s t u : State} {n m : Nat} {es fs : List Event} {rs rs' : List Reply}

theorem State.NotDueBefore.of_none (h : NoReset s) (n : Nat) : s.NotDueBefore n := by
  simp [State.NotDueBefore, h]

theorem State.NotDueBefore.of_some {d : Nat} (h : s.resetAfter = some d) (hn : n ≤ d) : s.NotDueBefore n := by
  simpa [State.NotDueBefore, h] using hn

theorem State.NotDueBefore.mono (h : s.NotDueBefore n) (hm : m ≤ n) : s.NotDueBefore m :=
  fun d hd => hm.trans (h d hd)

theorem State.NotDueBefore.resetDue_eq_false (h : s.NotDueBefore n) (hn : 0 < n) : s.resetDue = false := by
  refine Bool.eq_false_iff.mpr fun hdue => ?_
  have hzero := h 0 (State.resetDue_iff.mp hdue)
  omega

theorem Onward.refl (hreplies : s.replies = rs) : Onward s 0 [] rs s :=
  ⟨KeepsData.refl s, rfl, by simp, (List.append_nil _).symm, hreplies⟩

theorem Onward.trans (h : Onward s n es rs t) (h' : Onward t m fs rs' u) : Onward s (n + m) (es ++ fs) rs' u where
  keeps := h.keeps.trans h'.keeps
  inReset := h'.inReset.trans h.inReset
  countdown := by
    rw [h'.countdown, h.countdown, Option.map_map]
    exact congrArg (Option.map · s.resetAfter) (funext fun d => Nat.sub_sub d n m)
  trace := by rw [h'.trace, h.trace, List.append_assoc]
  replies := h'.replies

theorem Onward.notDueBefore (h : Onward s n es rs t) (hs : s.NotDueBefore (n + m)) : t.NotDueBefore m := by
  intro d hd
  rw [h.countdown] at hd
  obtain ⟨d', hd', rfl⟩ := Option.mem_map.mp hd
  have hbound := hs d' hd'
  omega

/-- The rest of a countdown of which `n` moments have passed. -/
theorem Onward.countdown_of_add (h : Onward s n es rs t) (hs : s.resetAfter = some (n + m)) : t.resetAfter = some m := by
  simp [h.countdown, hs]

theorem Onward.noReset (h : Onward s n es rs t) (hs : NoReset s) : NoReset t :=
  h.countdown.trans (by rw [hs]; rfl)

/-- The end of a row's shift writes the packer's own registers only. -/
theorem Onward.of_endShift (h : Onward s n es rs t.endShift) : Onward s n es rs t :=
  ⟨h.keeps, h.inReset, h.countdown, h.trace, h.replies⟩

theorem onward_enterPhase (s : State) (q : Phase) (r : Nat) : Onward s 0 [] s.replies (s.enterPhase q r) :=
  ⟨KeepsData.refl s, rfl, by simp, trace_of_log rfl rfl, rfl⟩

theorem KeepsData.rowLen_eq (h : KeepsData s t) : rowLen t = rowLen s := by
  obtain ⟨hcfg, -⟩ := h
  rw [rowLen, hcfg, rowLen]

theorem KeepsData.bytesOf_eq (h : KeepsData s t) (r : Nat) : bytesOf t r = bytesOf s r := by
  obtain ⟨hcfg, hgs, hpo, -⟩ := h
  rw [bytesOf, hcfg, hgs, hpo, bytesOf]

theorem KeepsData.rowTrace_eq (h : KeepsData s t) : rowTrace t = rowTrace s := by
  funext r
  rw [rowTrace, h.bytesOf_eq, rowTrace]

/-! ### Aborted commands -/

theorem abortedAfter_assertReset (hport : t.rspPort = s.rspPort) (htrace : t.trace = s.trace ++ es) :
    AbortedAfter s es t.assertReset :=
  ⟨rfl, rfl, hport, (assertReset_trace t).trans htrace, by simp⟩

theorem Onward.rspPort (h : Onward s n es rs t) : t.rspPort = s.rspPort := by
  obtain ⟨-, -, -, -, hport, -⟩ := h.keeps
  exact hport

theorem Onward.assertReset (h : Onward s n es rs t) : AbortedAfter s es t.assertReset :=
  abortedAfter_assertReset h.rspPort h.trace

theorem Onward.aborted (h : Onward s n es rs t) (h' : AbortedAfter t fs u) : AbortedAfter s (es ++ fs) u :=
  ⟨h'.inReset, h'.latch, h'.rspPort.trans h.rspPort, by rw [h'.trace, h.trace, List.append_assoc], h'.last⟩

theorem AbortedAfter.of_endShift (h : AbortedAfter s es t.endShift) : AbortedAfter s es t :=
  ⟨h.inReset, h.latch, h.rspPort, h.trace, h.last⟩

theorem AbortedAfter.of_withPending {row : Option Nat} (h : AbortedAfter { s with pendingRow := row } es t) : AbortedAfter s es t :=
  ⟨h.inReset, h.latch, h.rspPort, h.trace, h.last⟩

/-- A command that comes to its response when reset is due is aborted there. -/
theorem respond_abortedAfter {op : BitVec 8} {st : Status} {c : Nat} {d0 d1 d2 : Gray} (hdue : t.resetAfter = some 0)
    (hport : t.rspPort = s.rspPort) (htrace : t.trace = s.trace ++ es) : AbortedAfter s es (respond op st c d0 d1 d2 t) := by
  rw [respond_aborted hdue]
  exact abortedAfter_assertReset hport htrace

end

/-! ### The bytes of a row (60_exceptions.md R205) -/

/-- `s` after the transport accepted `bs`, a moment for each, with the replies `rs` still to come. -/
def State.bytesSent (s : State) (bs : List Byte) (rs : List Reply) : State :=
  { s with
    replies := rs
    attempts := s.attempts + bs.length
    resetAfter := s.resetAfter.map (· - bs.length)
    log := s.log ++ bytesOk bs }

/-- `s` after the first `n` bytes of row `r` were sent, but for the packer's registers. -/
def State.rowSent (s : State) (r n : Nat) (rs : List Reply) : State :=
  (s.enterPhase .shifting r).endShift.bytesSent ((bytesOf s r).take n) rs

section
variable {s : State} {rs : List Reply}

theorem onward_bytesSent (s : State) (bs : List Byte) (rs : List Reply) :
    Onward s bs.length (bytesOk bs) rs (s.bytesSent bs rs) :=
  ⟨KeepsData.refl s, rfl, rfl, trace_of_log rfl (observable_bytesOk bs), rfl⟩

theorem onward_rowSent {r n : Nat} (hn : n ≤ rowLen s) (rs : List Reply) :
    Onward s n (bytesOk ((bytesOf s r).take n)) rs (s.rowSent r n rs) := by
  have hlen : ((bytesOf s r).take n).length = n := List.length_take_of_le (by rwa [length_bytesOf])
  have hsent := onward_bytesSent (s.enterPhase .shifting r).endShift ((bytesOf s r).take n) rs
  have hstart := onward_enterPhase s .shifting r
  rw [hlen] at hsent
  have h : Onward (s.enterPhase .shifting r) n (bytesOk ((bytesOf s r).take n)) rs (s.rowSent r n rs) :=
    ⟨hsent.keeps, hsent.inReset, hsent.countdown, hsent.trace, hsent.replies⟩
  simpa using hstart.trans h

theorem onward_wholeRowSent (s : State) (r : Nat) (rs : List Reply) :
    Onward s (rowLen s) (bytesOk (bytesOf s r)) rs (s.rowSent r (rowLen s) rs) := by
  have hsent := onward_rowSent (s := s) (r := r) le_rfl rs
  rwa [List.take_of_length_le (length_bytesOf s r).le] at hsent

theorem emit_of_accepted (hreset : s.NotDueBefore 1) (hreplies : s.replies = .answer .ok :: rs) (b : Byte) :
    emit b s = .ok (s.bytesSent [b] rs) := by
  simp [emit, hreset.resetDue_eq_false, State.nextReply, hreplies, State.byteAnswered, State.bytesSent, State.logged, State.tick,
    bytesOk]

/-- Bytes that are all accepted before reset is due. -/
theorem sendAll_of_accepted {bs : List Byte} (hreset : s.NotDueBefore bs.length) (hreplies : s.replies = oks bs.length ++ rs) :
    sendAll bs s = .ok (s.bytesSent bs rs) := by
  induction bs generalizing s with
  | nil =>
    obtain rfl : s.replies = rs := hreplies
    simp [sendAll, State.bytesSent, bytesOk]
  | cons b bs ih =>
    have hfirst := onward_bytesSent s [b] (oks bs.length ++ rs)
    have hmoments : s.NotDueBefore ([b].length + bs.length) := hreset.mono (by simp [Nat.add_comm])
    have hemit : emit b s = .ok (s.bytesSent [b] (oks bs.length ++ rs)) := emit_of_accepted (hreset.mono (by simp)) hreplies b
    rw [sendAll, hemit, Progress.andThen_ok, ih (hfirst.notDueBefore hmoments) rfl]
    simp [State.bytesSent, bytesOk, Nat.add_assoc, Nat.add_comm 1, Nat.sub_sub, Function.comp_def]

/-- Sending ends where a byte is not answered, after the bytes before it. -/
theorem sendAll_of_halted {bs : List Byte} {k : Nat} {u : State} (hk : k < bs.length) (hreset : s.NotDueBefore k)
    (hreplies : s.replies = oks k ++ rs) (hhalt : ∀ b, emit b (s.bytesSent (bs.take k) rs) = .halted u) :
    sendAll bs s = .halted u := by
  have hlen : (bs.take k).length = k := List.length_take_of_le hk.le
  have hsplit : bs = bs.take k ++ bs[k] :: bs.drop (k + 1) := by
    rw [List.getElem_cons_drop, List.take_append_drop]
  have hbefore : sendAll (bs.take k) s = .ok (s.bytesSent (bs.take k) rs) :=
    sendAll_of_accepted (by rwa [hlen]) (by rwa [hlen])
  conv_lhs => rw [hsplit]
  rw [sendAll_append, hbefore, Progress.andThen_ok, sendAll, hhalt, Progress.andThen_halted]

/-! ### A row's shift (42_bit_packer.md R166) -/

variable {r k : Nat}

theorem shiftRow_of_accepted (r : Nat) (hreset : s.NotDueBefore (rowLen s)) (hreplies : s.replies = oks (rowLen s) ++ rs) :
    shiftRow r s = .ok (s.rowSent r (rowLen s) rs) := by
  have htake : (bytesOf s r).take (rowLen s) = bytesOf s r := List.take_of_length_le (length_bytesOf s r).le
  rw [State.rowSent, htake]
  refine shiftRow_of_sendAll (sendAll_of_accepted ?_ ?_) (by simp)
  · rw [length_bytesOf]; exact hreset
  · rw [length_bytesOf]; exact hreplies

/-- A row's shift ends where a byte is not answered; only the packer's registers tell it from the sending of its bytes. -/
theorem shiftRow_of_halted {u : State} (hk : k < rowLen s) (hreset : s.NotDueBefore k) (hreplies : s.replies = oks k ++ rs)
    (hhalt : ∀ b, emit b (s.rowSent r k rs) = .halted u) : ∃ t, shiftRow r s = .halted t ∧ t.endShift = u := by
  have hrow := rowTransmission_tracks r s
  have hsend : sendAll (bytesOf s r) (s.enterPhase .shifting r).endShift = .halted u :=
    sendAll_of_halted (by rwa [length_bytesOf]) hreset hreplies hhalt
  rw [hsend] at hrow
  rw [shiftRow]
  generalize (pushWalk _ _).andThen flush = q at hrow ⊢
  cases hrow
  exact ⟨_, rfl, rfl⟩

/-- Reset asserted after `k` bytes of a row, before the next one (70_reset_and_hazards.md R232). -/
theorem shiftRow_aborted (hk : k < rowLen s) (hreset : s.resetAfter = some k) (hreplies : s.replies = oks k ++ rs) :
    ∃ t, shiftRow r s = .halted t ∧ AbortedAfter s (bytesOk ((bytesOf s r).take k)) t := by
  have hsent := onward_rowSent (r := r) hk.le rs
  have hdue : (s.rowSent r k rs).resetDue = true := State.resetDue_iff.mpr (hsent.countdown_of_add (m := 0) hreset)
  obtain ⟨t, hshift, hend⟩ := shiftRow_of_halted hk (.of_some hreset le_rfl) hreplies fun b => by rw [emit, if_pos hdue]
  refine ⟨t, hshift, AbortedAfter.of_endShift ?_⟩
  rw [hend]
  exact hsent.assertReset

/-- Byte `k` of a row is never answered, and no reset is coming: the block waits in SHIFTING (70_reset_and_hazards.md R245). -/
theorem shiftRow_unanswered (hk : k < rowLen s) (hs : NoReset s) (hreplies : s.replies = oks k ++ .never :: rs) :
    ∃ t, shiftRow r s = .halted t ∧ t.phase = .shifting ∧ Onward s k (bytesOk ((bytesOf s r).take k)) rs t := by
  have hsent := onward_rowSent (r := r) hk.le (.never :: rs)
  obtain ⟨t, hshift, hend⟩ := shiftRow_of_halted hk (.of_none hs k) hreplies fun b => emit_never (hsent.noReset hs) rfl b
  refine ⟨t, hshift, ?_, Onward.of_endShift ?_⟩
  · exact congrArg State.phase hend
  · rw [hend]
    exact ⟨hsent.keeps, hsent.inReset, hsent.countdown, hsent.trace, rfl⟩

/-! ### The latch pulse (43_latch.md R182) -/

/-- Within a pulse, its line high. -/
theorem onward_lineHigh (s : State) (r : Nat) : Onward s 1 [] s.replies (s.driveLine r true).tick :=
  ⟨KeepsData.refl s, rfl, rfl, trace_of_log rfl rfl, rfl⟩

theorem pulse_of_completed (r : Nat) (hreset : s.NotDueBefore 2) :
    ∃ t, pulse r s = .ok t ∧ Onward s 2 [.latchPulse r] s.replies t := by
  have hhigh := onward_lineHigh s r
  have hlow : Onward (s.driveLine r true).tick 1 [.latchPulse r] s.replies
      (((s.driveLine r true).tick.driveLine r false).logged (.latchPulse r)).tick :=
    ⟨KeepsData.refl _, rfl, rfl, trace_of_log (List.append_assoc ..) rfl, rfl⟩
  refine ⟨_, ?_, hhigh.trans hlow⟩
  simp [pulse, hreset.resetDue_eq_false, (hhigh.notDueBefore (m := 1) hreset).resetDue_eq_false]

/-- Reset asserted before the line rises. -/
theorem pulse_of_due (r : Nat) (hreset : s.resetAfter = some 0) : pulse r s = .halted s.assertReset :=
  if_pos (State.resetDue_iff.mpr hreset)

/-- Reset asserted while the line is high (70_reset_and_hazards.md R232). -/
theorem pulse_of_dueInside (r : Nat) (hreset : s.resetAfter = some 1) :
    pulse r s = .halted (s.driveLine r true).tick.assertReset := by
  have hhigh := onward_lineHigh s r
  have hnotYet : s.resetDue = false := State.NotDueBefore.resetDue_eq_false (.of_some hreset le_rfl) Nat.one_pos
  have hdue : (s.driveLine r true).tick.resetDue = true :=
    State.resetDue_iff.mpr (hhigh.countdown_of_add (m := 0) hreset)
  simp [pulse, hnotYet, hdue]

theorem pulse_aborted (r : Nat) (hreset : s.resetAfter = some k) (hk : k < 2) :
    ∃ t, pulse r s = .halted t ∧ AbortedAfter s [] t := by
  obtain rfl | rfl : k = 0 ∨ k = 1 := by omega
  · exact ⟨_, pulse_of_due r hreset, (Onward.refl rfl).assertReset⟩
  · exact ⟨_, pulse_of_dueInside r hreset, (onward_lineHigh s r).assertReset⟩

/-! ### The rows of UPDATE (43_latch.md R184, R186) -/

/-- A row that is shifted and latched before reset is due: a moment for each byte and two for the pulse. -/
theorem updateRows_cons_of_accepted (r : Nat) (later : List Nat) (hreset : s.NotDueBefore (rowLen s + 2))
    (hreplies : s.replies = oks (rowLen s) ++ rs) :
    ∃ t, updateRows (r :: later) s = updateRows later t ∧ Onward s (rowLen s + 2) (rowTrace s r) rs t := by
  have hlatching := (onward_wholeRowSent s r rs).trans (onward_enterPhase (s.rowSent r (rowLen s) rs) .latching r)
  obtain ⟨t, hpulse, hpulsed⟩ := pulse_of_completed r (hlatching.notDueBefore hreset)
  have hdone := (hlatching.trans hpulsed).trans (onward_enterPhase t .idle r)
  refine ⟨t.enterPhase .idle r, ?_, ?_⟩
  · simp only [updateRows, shiftRow_of_accepted r (hreset.mono (Nat.le_add_right _ 2)) hreplies, hpulse, Progress.andThen_ok]
  · rw [List.append_nil, List.append_nil, hpulsed.replies] at hdone
    exact hdone

/-- Rows that are shifted and latched one after another before reset is due. -/
theorem updateRows_append_of_accepted (done later : List Nat) (hreset : s.NotDueBefore (done.length * (rowLen s + 2)))
    (hreplies : s.replies = oks (done.length * rowLen s) ++ rs) :
    ∃ t, updateRows (done ++ later) s = updateRows later t ∧
      Onward s (done.length * (rowLen s + 2)) (done.flatMap (rowTrace s)) rs t := by
  induction done generalizing s with
  | nil => exact ⟨s, rfl, by simpa using Onward.refl (by simpa [oks] using hreplies)⟩
  | cons r done ih =>
    rw [List.length_cons, Nat.succ_mul, Nat.add_comm] at hreset hreplies
    rw [oks_add, List.append_assoc] at hreplies
    obtain ⟨t, hrow, hfirst⟩ := updateRows_cons_of_accepted r (done ++ later) (hreset.mono (Nat.le_add_right ..)) hreplies
    have hlen := hfirst.keeps.rowLen_eq
    obtain ⟨u, hrows, hrest⟩ := ih (s := t) (by rw [hlen]; exact hfirst.notDueBefore hreset) (by rw [hlen]; exact hfirst.replies)
    rw [hlen, hfirst.keeps.rowTrace_eq] at hrest
    refine ⟨u, hrow.trans hrows, ?_⟩
    rw [List.length_cons, Nat.succ_mul, Nat.add_comm, List.flatMap_cons]
    exact hfirst.trans hrest

/-- Reset asserted within a row of UPDATE: before one of its bytes, or before the end of its pulse (70_reset_and_hazards.md R232). -/
theorem updateRows_cons_aborted (later : List Nat) (hk : k ≤ rowLen s + 1) (hreset : s.resetAfter = some k)
    (hreplies : s.replies = oks (min k (rowLen s)) ++ rs) :
    ∃ t, updateRows (r :: later) s = .halted t ∧ AbortedAfter s (bytesOk ((bytesOf s r).take k)) t := by
  by_cases hbytes : k < rowLen s
  · rw [Nat.min_eq_left hbytes.le] at hreplies
    obtain ⟨t, hshift, haborted⟩ := shiftRow_aborted (r := r) hbytes hreset hreplies
    exact ⟨t, by rw [updateRows, hshift], haborted⟩
  · rw [Nat.min_eq_right (Nat.not_lt.mp hbytes)] at hreplies
    obtain ⟨j, rfl⟩ := Nat.exists_eq_add_of_le (Nat.not_lt.mp hbytes)
    have hlatching := (onward_wholeRowSent s r rs).trans (onward_enterPhase (s.rowSent r (rowLen s) rs) .latching r)
    obtain ⟨t, hpulse, haborted⟩ := pulse_aborted r (hlatching.countdown_of_add hreset) (by omega)
    have hshift := shiftRow_of_accepted r (.of_some hreset (Nat.le_add_right ..)) hreplies
    refine ⟨t, by simp only [updateRows, hshift, hpulse, Progress.andThen_halted], ?_⟩
    rw [List.take_of_length_le (by simp)]
    simpa using hlatching.aborted haborted

end

/-! ### Where a transmission leaves its command (42_bit_packer.md R170, 43_latch.md R186) -/

section
variable {s t : State}

/-- A row that was shifted leaves SHIFT_ROW its response, whether or not reset lets it answer. -/
theorem exec_shiftRow_of_shifted {r : Nat} (hr : r < rows s.cfg) (hshift : shiftRow r { s with pendingRow := none } = .ok t) :
    exec (.shiftRow r) s =
      .next (respond Opcode.shiftRow.code .ok 0 0 0 0 { t.enterPhase .idle r with pendingRow := some r }) := by
  simp only [exec, execShiftRow, rowInRange_iff.mpr hr, if_true, hshift]

theorem exec_shiftRow_of_halted {r : Nat} (hr : r < rows s.cfg) (hshift : shiftRow r { s with pendingRow := none } = .halted t) :
    exec (.shiftRow r) s = .next t := by
  simp only [exec, execShiftRow, rowInRange_iff.mpr hr, if_true, hshift]

/-- Rows that were all latched leave UPDATE its response, whether or not reset lets it answer. -/
theorem exec_update_of_latched (hctrl : s.cfg.hasLatchCtrl = true)
    (hrows : updateRows (rowSeq s.cfg) { s with pendingRow := none } = .ok t) :
    exec .update s = .next (respond Opcode.update.code .ok 0 0 0 0 t) := by
  simp only [exec, execUpdate, withLatchCtrl_of_has hctrl, updateAll, hrows]

theorem exec_update_of_halted (hctrl : s.cfg.hasLatchCtrl = true)
    (hrows : updateRows (rowSeq s.cfg) { s with pendingRow := none } = .halted t) : exec .update s = .next t := by
  simp only [exec, execUpdate, withLatchCtrl_of_has hctrl, updateAll, hrows]

/-- A transmission that waits for the transport, with no reset coming, has no next step (R245). -/
theorem step_of_shifting (hreset : t.inReset = false) (hs : NoReset t) (hphase : t.phase = .shifting) :
    step t = .fault .transportNeverAnswers := by
  simp [step, advance, waitForReset, hreset, hphase, hs]

end

/-! ### Commands that reset aborts (70_reset_and_hazards.md R232) -/

section
variable {s : State} {rs : List Reply}

/-- SHIFT_ROW when reset is due after `k` bytes of its row: before the next byte, or before its response. -/
theorem exec_shiftRow_aborted {r k : Nat} (hr : r < rows s.cfg) (hk : k ≤ rowLen s) (hreset : s.resetAfter = some k)
    (hreplies : s.replies = oks k ++ rs) :
    ∃ t, exec (.shiftRow r) s = .next t ∧ AbortedAfter s (bytesOk ((bytesOf s r).take k)) t := by
  rcases hk.lt_or_eq with hlt | rfl
  · obtain ⟨t, hshift, hcut⟩ := shiftRow_aborted (r := r) (s := { s with pendingRow := none }) hlt hreset hreplies
    exact ⟨t, exec_shiftRow_of_halted hr hshift, hcut.of_withPending⟩
  · have hsent := onward_wholeRowSent { s with pendingRow := none } r rs
    have hshift := shiftRow_of_accepted r (s := { s with pendingRow := none }) (.of_some hreset le_rfl) hreplies
    rw [List.take_of_length_le (length_bytesOf s r).le]
    have hidle := hsent.trans (onward_enterPhase _ .idle r)
    rw [List.append_nil] at hidle
    refine ⟨_, exec_shiftRow_of_shifted hr hshift, ?_⟩
    exact respond_abortedAfter (by exact hidle.countdown_of_add (m := 0) hreset) rfl hidle.trace

/-- UPDATE when reset is due within a row, after the rows before it. -/
theorem exec_update_aborted {done later : List Nat} {r k : Nat} (hctrl : s.cfg.hasLatchCtrl = true)
    (hseq : rowSeq s.cfg = done ++ r :: later) (hk : k ≤ rowLen s + 1)
    (hreset : s.resetAfter = some (done.length * (rowLen s + 2) + k))
    (hreplies : s.replies = oks (done.length * rowLen s + min k (rowLen s)) ++ rs) :
    ∃ t, exec .update s = .next t ∧
      AbortedAfter s (done.flatMap (rowTrace s) ++ bytesOk ((bytesOf s r).take k)) t := by
  rw [oks_add, List.append_assoc] at hreplies
  obtain ⟨t, hdone, hrows⟩ := updateRows_append_of_accepted done (r :: later) (s := { s with pendingRow := none })
    (.of_some hreset (Nat.le_add_right ..)) hreplies
  have hlen := hrows.keeps.rowLen_eq
  obtain ⟨u, hrow, hcut⟩ := updateRows_cons_aborted (r := r) later (by rw [hlen]; exact hk) (hrows.countdown_of_add hreset)
    (by rw [hlen]; exact hrows.replies)
  rw [hrows.keeps.bytesOf_eq] at hcut
  refine ⟨u, exec_update_of_halted hctrl ?_, (hrows.aborted hcut).of_withPending⟩
  rw [hseq, hdone, hrow]

/-- UPDATE when reset is due after all of its rows, before its response. -/
theorem exec_update_abortedAtResponse (hctrl : s.cfg.hasLatchCtrl = true)
    (hreset : s.resetAfter = some (rows s.cfg * (rowLen s + 2))) (hreplies : s.replies = oks (rows s.cfg * rowLen s) ++ rs) :
    ∃ t, exec .update s = .next t ∧ AbortedAfter s ((rowSeq s.cfg).flatMap (rowTrace s)) t := by
  rw [← length_rowSeq] at hreset hreplies
  obtain ⟨t, hdone, hrows⟩ := updateRows_append_of_accepted (rowSeq s.cfg) [] (s := { s with pendingRow := none })
    (.of_some hreset le_rfl) hreplies
  rw [List.append_nil] at hdone
  refine ⟨_, exec_update_of_latched hctrl hdone, ?_⟩
  exact (respond_abortedAfter (hrows.countdown_of_add (m := 0) hreset) hrows.rspPort hrows.trace).of_withPending

/-! ### Commands under a reset that is due (70_reset_and_hazards.md R232) -/

theorem ensures_of_next {P : State → Prop} {res : Result} (h : ∃ t, res = .next t ∧ P t) : Ensures P res := by
  obtain ⟨t, rfl, ht⟩ := h
  exact ht

section
variable (hdue : s.resetAfter = some 0) (op : BitVec 8)
include hdue

theorem raise_aborted (e : Status) : AbortedAfter s [] (raise op e s) :=
  respond_abortedAfter (by exact hdue) rfl (List.append_nil _).symm

theorem limitAndCommit_aborted (cand : List (Nat × Gray)) : AbortedAfter s [] (limitAndCommit op cand s) :=
  respond_abortedAfter (by exact hdue) rfl (List.append_nil _).symm

theorem setter_aborted (inRange : Bool) (cand : List (Nat × Gray)) : AbortedAfter s [] (setter op inRange cand s) := by
  rcases setter_cases op inRange cand s with ⟨-, heq⟩ | ⟨-, heq⟩ <;> rw [heq]
  · exact raise_aborted hdue ..
  · exact limitAndCommit_aborted hdue ..

theorem commitPinOrder_aborted (leds : List Nat) (o : PinOrder) : AbortedAfter s [] (commitPinOrder op leds o s) :=
  respond_abortedAfter (by exact hdue) rfl (List.append_nil _).symm

theorem execGetter_aborted (inRange : Bool) (d0 d1 d2 : Gray) :
    AbortedAfter s [] (if inRange then respond op .ok 0 d0 d1 d2 s else raise op .outOfRange s) := by
  split
  · exact respond_abortedAfter (by exact hdue) rfl (List.append_nil _).symm
  · exact raise_aborted hdue ..

end

section
variable (hdue : s.resetAfter = some 0)
include hdue

theorem execSetPinOrder_aborted (led p0 p1 p2 : Nat) : Ensures (AbortedAfter s []) (execSetPinOrder led p0 p1 p2 s) := by
  simp only [execSetPinOrder, Ensures]
  split
  · split
    · exact commitPinOrder_aborted hdue ..
    · exact raise_aborted hdue ..
  · exact raise_aborted hdue ..

theorem execSetPinOrderAll_aborted (p0 p1 p2 : Nat) : Ensures (AbortedAfter s []) (execSetPinOrderAll p0 p1 p2 s) := by
  simp only [execSetPinOrderAll, Ensures]
  split
  · exact commitPinOrder_aborted hdue ..
  · exact raise_aborted hdue ..

/-- SHIFT_ROW is aborted after none of its bytes. -/
theorem execShiftRow_aborted (r : Nat) : Ensures (AbortedAfter s []) (execShiftRow r s) := by
  by_cases hr : r < rows s.cfg
  · exact ensures_of_next (exec_shiftRow_aborted hr (Nat.zero_le _) hdue rfl)
  · rw [execShiftRow, if_neg (mt rowInRange_iff.mp hr)]
    exact raise_aborted hdue ..

theorem latchRow_aborted (r : Nat) : AbortedAfter s [] (latchRow r s) := by
  unfold latchRow
  split
  · split
    · rw [pulse_of_due r (by exact hdue)]
      exact (onward_enterPhase s .latching r).assertReset
    · exact raise_aborted hdue ..
  · exact raise_aborted hdue ..

/-- UPDATE is aborted after none of the bytes of its first row, or, with no row, before its response. -/
theorem execUpdate_aborted : Ensures (AbortedAfter s []) (execUpdate s) := by
  cases hctrl : s.cfg.hasLatchCtrl with
  | false =>
    rw [execUpdate, withLatchCtrl_of_hasNot hctrl]
    exact raise_aborted hdue ..
  | true =>
    cases hseq : rowSeq s.cfg with
    | nil =>
      have hrows : rows s.cfg = 0 := by rw [← length_rowSeq, hseq]; rfl
      have hupdate := exec_update_abortedAtResponse (rs := s.replies) hctrl (by simpa [hrows] using hdue) (by simp [hrows, oks])
      rw [hseq] at hupdate
      exact ensures_of_next hupdate
    | cons r later =>
      exact ensures_of_next (exec_update_aborted (done := []) (k := 0) (rs := s.replies) hctrl hseq (Nat.zero_le _)
        (by simpa using hdue) (by simp [oks]))

/-- Every command is aborted before it emits, pulses or answers. -/
theorem exec_aborted (i : Instr) : Ensures (AbortedAfter s []) (exec i s) := by
  cases i with
  | setAll _ | setAllRgb _ _ _ | setLedMono _ _ | setLedRgb _ _ _ _ | setLedAppend _ _ _ _ | setChannel _ _ =>
    exact setter_aborted hdue ..
  | getChannel _ _ | getLed _ _ => exact execGetter_aborted hdue ..
  | enforceMaxCurrent => exact limitAndCommit_aborted hdue ..
  | setPinOrder led p0 p1 p2 => exact execSetPinOrder_aborted hdue led p0 p1 p2
  | setPinOrderAll p0 p1 p2 => exact execSetPinOrderAll_aborted hdue p0 p1 p2
  | shiftRow r => exact execShiftRow_aborted hdue r
  | latch r =>
    show AbortedAfter s [] (withLatchCtrl _ _ s)
    rcases withLatchCtrl_cases Opcode.latch.code (latchRow r) s with ⟨-, heq⟩ | ⟨-, heq⟩ <;> rw [heq]
    · exact latchRow_aborted hdue r
    · exact raise_aborted hdue ..
  | update => exact execUpdate_aborted hdue

end

end

end Sys2Proof.Machine

namespace Sys2Proof.Proofs

open Sys2Proof.Machine Sys2Proof.Claims

/-- Settles O52: the bytes and rows before the assertion take their moments, and the next moment finds reset due. -/
theorem resetAfterSomeBytesCutsTheRow : Obligations.ResetAfterSomeBytesCutsTheRow := by
  unfold Obligations.ResetAfterSomeBytesCutsTheRow
  refine ⟨fun r k s rs hreset hk hr hreplies => ?_, fun s done later r k rs hctrl hseq hk hreset hreplies => ?_,
    fun s rs hctrl hreset hreplies => ?_⟩
  · obtain ⟨t, hexec, hcut⟩ := exec_shiftRow_aborted hr hk hreset hreplies
    exact ⟨t, hexec, hcut.inReset, hcut.latch, hcut.rspPort, hcut.trace⟩
  · obtain ⟨t, hexec, hcut⟩ := exec_update_aborted hctrl hseq hk hreset hreplies
    exact ⟨t, hexec, hcut.inReset, hcut.latch, hcut.rspPort, hcut.trace.trans (List.append_assoc ..).symm⟩
  · obtain ⟨t, hexec, hcut⟩ := exec_update_abortedAtResponse hctrl hreset hreplies
    exact ⟨t, hexec, hcut.inReset, hcut.latch, hcut.rspPort, hcut.trace⟩

/-- Settles O50: the rows and bytes before are sent, the row's shift then waits in SHIFTING, and with no reset coming nothing ends the
wait. -/
theorem unansweredByteHangs : Obligations.UnansweredByteHangs := by
  unfold Obligations.UnansweredByteHangs
  constructor
  · intro r k s rs hs hreset hr hk hreplies
    obtain ⟨t, hshift, hphase, hsent⟩ := shiftRow_unanswered (r := r) (s := { s with pendingRow := none }) hk hs hreplies
    obtain ⟨-, hgs, hpo, hpending, hport, -⟩ := hsent.keeps
    exact ⟨t, exec_shiftRow_of_halted hr hshift, hphase, hport, hpending, hgs, hpo, hsent.trace,
      step_of_shifting (hsent.inReset.trans hreset) (hsent.noReset hs) hphase⟩
  · intro s done later r k rs hs hreset hctrl hseq hk hreplies
    rw [oks_add, List.append_assoc] at hreplies
    obtain ⟨t, hdone, hrows⟩ := updateRows_append_of_accepted done (r :: later) (s := { s with pendingRow := none })
      (.of_none hs _) hreplies
    obtain ⟨u, hshift, hphase, hrow⟩ := shiftRow_unanswered (r := r) (by rw [hrows.keeps.rowLen_eq]; exact hk)
      (hrows.noReset hs) hrows.replies
    rw [hrows.keeps.bytesOf_eq] at hrow
    have hsent := hrows.trans hrow
    obtain ⟨-, hgs, hpo, hpending, hport, -⟩ := hsent.keeps
    have hhalted : updateRows (rowSeq s.cfg) { s with pendingRow := none } = .halted u := by rw [hseq, hdone, updateRows, hshift]
    exact ⟨u, exec_update_of_halted hctrl hhalted, hphase, hport, hpending, hgs, hpo,
      hsent.trace.trans (List.append_assoc ..).symm, step_of_shifting (hsent.inReset.trans hreset) (hsent.noReset hs) hphase⟩

/-- Settles O51: whatever the command, reset is due before its first byte, its pulse or its response. -/
theorem resetAbortsAnyCommand : Obligations.ResetAbortsAnyCommand := by
  unfold Obligations.ResetAbortsAnyCommand
  intro i s hdue
  obtain ⟨t, hexec⟩ := exec_next i s
  have hcut := exec_aborted hdue i
  rw [hexec] at hcut
  exact ⟨t, hexec, hcut.inReset, hcut.latch, hcut.trace.trans (List.append_nil _), hcut.rspPort, hcut.last⟩

/-- Settles O53: the pulse is aborted with its line high, which the assertion of reset drives low. -/
theorem resetInsidePulseCutsItShort : Obligations.ResetInsidePulseCutsItShort := by
  unfold Obligations.ResetInsidePulseCutsItShort
  intro r s hreset hctrl hr hrow hlatch
  have hpulse := pulse_of_dueInside (s := s.enterPhase .latching r) r hreset
  have hexec : exec (.latch r) s = .next ((s.enterPhase .latching r).driveLine r true).tick.assertReset := by
    rw [exec, execLatch, withLatchCtrl_of_has hctrl, latchRow, if_pos (rowInRange_iff.mpr hr), if_pos hrow, hpulse]
  exact ⟨_, hexec, rfl, rfl, rfl, by simp [State.driveLine, State.logged, State.enterPhase, hlatch, tableWrite]⟩

/-- Settles O55: the release gives the reset state of the configuration inputs, which is ready. -/
theorem releaseLeavesTheBlockReady : Obligations.ReleaseLeavesTheBlockReady := by
  unfold Obligations.ReleaseLeavesTheBlockReady
  intro s t hr hstep
  obtain ⟨-, rfl⟩ := step_from_reset hr hstep
  exact ⟨⟨rfl, rfl, rfl, rfl⟩, rfl⟩

end Sys2Proof.Proofs
